-- ==== Sys2Proof/Word.lean ====
section
/-! DEFINITION. The value types of the core: bytes, 32-bit words, 128-bit Blocks, and the two 32-bit words of the
command port (spec/00_scope.md R9, R10, R11; spec/10_state.md R29, R30). -/

namespace Sys2Proof

/-- A byte, an element of GF(2^8) (spec/40_primitives.md R70). -/
abbrev Byte : Type := BitVec 8

/-- A 32-bit word (lane) of a Block, as the port value of its four bytes (00_scope.md R11, 20_memory.md R42). -/
abbrev Word : Type := BitVec 32

/-- A Block, a RoundKey or a key, as the 128-bit port value of 20_memory.md R41. -/
abbrev Block : Type := BitVec 128

/-- The command word CMD (30_encoding.md R55). -/
abbrev CmdWord : Type := BitVec 32

/-- The status word STATUS (10_state.md R30). -/
abbrev StatusWord : Type := BitVec 32

end Sys2Proof
end

