-- ==== Sys2Proof/Config.lean ====
section
/-! DEFINITION. The fixed parameters of the core (spec/00_scope.md R8) and its one open value: what the schedule slots
hold after a reset (spec/10_state.md R35). -/

namespace Sys2Proof.Config

/-- The identity string (00_scope.md R1). No register reports it, so no step reads it. -/
def identity : String := "FASTAES-CORE-AES128"

/-- `BLOCK_BITS` (R8): the width of `Block`. -/
def blockBits : Nat := 128

/-- `KEY_BITS` (R8). -/
def keyBits : Nat := 128

/-- `NR` (R8): 9 full rounds plus 1 final round. -/
def rounds : Nat := 10

/-- `NSLOTS` (R8): the slots KS[0..19]. -/
def numSlots : Nat := 20

/-- `FWD_SLOTS` (R8): slots 0 to 10. -/
def numForwardSlots : Nat := 11

/-- `INV_SLOTS` (R8): slots 11 to 19. -/
def numInverseSlots : Nat := 9

/-- `CMD_BITS` (R8). -/
def cmdBits : Nat := 32

/-- `STATUS_BITS` (R8). -/
def statusBits : Nat := 32

/-- `SLOT_FIELD_BITS` (R8). -/
def slotFieldBits : Nat := 5

/-- FREE VALUE (log entry 2). What KS[0..19] hold after a reset event: "any value, and different slots may hold
different values. Reset does not clear it. A value left from before the reset is allowed" (10_state.md R35). It is
uninterpreted; it takes the number of the draw and the slots' old contents, so that neither "cleared" nor "kept" nor
"the same at every reset" can be proved of it. -/
opaque resetSlots : (draw : Nat) → (old : Vector Block 20) → Vector Block 20

end Sys2Proof.Config
end

