-- ==== Sys2Proof/Machine/State.lean ====
section
/-! DEFINITION. All the state the spec gives the core (spec/10_state.md R21, R25, R26, R28, R31, R36), the command port as
plain data (R20, R29, R30), and the state after reset (R34, R35). -/

namespace Sys2Proof.Machine

/-- The status codes (60_exceptions.md R151). -/
inductive Code where
  | ok
  | illegal
  | notBuilt
  | slotRange
deriving DecidableEq, Repr

/-- What the host can do to the core between commands: issue one command (10_state.md R29), or assert reset
(70_reset_and_hazards.md R170). -/
inductive HostEvent where
  /-- A command word and the 128-bit DIN presented with it. -/
  | command (cmd : CmdWord) (din : Block)
  /-- The one reset of the core. -/
  | reset
deriving DecidableEq, Repr

/-- The core's answer to one command: "The host reads DOUT together with STATUS at the end of each command" (R31). -/
structure Response where
  status : StatusWord
  dout : Block
deriving DecidableEq, Repr

/-- The machine: the core's registers (R36) and, below them, the command port's two ends. The last three fields are the
model's own (log entries 1, 2 and 3): the core keeps neither CMD nor DIN (R29), and it has no counters (R32). -/
structure State where
  /-- `KS[0..19]`, the key-schedule register file (R21). -/
  ks : Vector Block 20
  /-- `FWD_VALID` (R25). -/
  fwdValid : Bool
  /-- `INV_VALID` (R26). -/
  invValid : Bool
  /-- `ERR`, sticky (R28). -/
  err : Bool
  /-- `DOUT`, the data-out register (R31). -/
  dout : Block
  /-- What the host has yet to issue, the next event first (R20, 20_memory.md R48). -/
  pending : List HostEvent
  /-- The responses of the current run, in order (70_reset_and_hazards.md R179). -/
  responses : List Response
  /-- How many times the free value `Config.resetSlots` has been drawn. -/
  draws : Nat
deriving DecidableEq, Repr

/-- Why a step could stop with a fault. There is no such reason: "The core never traps" (60_exceptions.md R150), and every
command "ends with a response". A command that fails is recorded in ERR and in its response (R155, R158), and the machine
goes on (safe: nothing raises a fault, so nothing can be proved from one). -/
inductive Fault where
deriving DecidableEq, Repr

/-- Why a step could be refused. -/
inductive Refusal where
  /-- An instruction of the opcode table that has no meaning yet. Nothing raises it: every command has its meaning
  (safe). -/
  | notModelled (mnemonic : String)
deriving DecidableEq, Repr

/-- The state right after reset (R34), with nothing issued. The spec leaves KS[0..19] unspecified (R35); the zeros here
are the model's choice (DESIGN CHOICE, log entry 1). -/
def State.reset : State where
  ks := Vector.replicate 20 0
  fwdValid := false
  invValid := false
  err := false
  dout := 0
  pending := []
  responses := []
  draws := 0

end Sys2Proof.Machine
end

