-- ==== Sys2Proof/Machine/Operands.lean ====
section
/-! DEFINITION. Every operand form of the commands and of the transforms: the bytes and words of a Block on its port bits
(spec/20_memory.md R41, R42; spec/00_scope.md R10, R11), and the slot an RDKS names (spec/30_encoding.md R57). -/

namespace Sys2Proof.Machine

/-- Byte i of a Block: bits [8i+7 : 8i] of the port value (20_memory.md R41). -/
def byteOf (b : Block) (i : Nat) : Byte := b.extractLsb' (8 * i) 8

/-- The Block whose byte i is `f i`, for i = 0..15 (R41). -/
def blockOf (f : Nat → Byte) : Block :=
  f 15 ++ f 14 ++ f 13 ++ f 12 ++ f 11 ++ f 10 ++ f 9 ++ f 8 ++
    f 7 ++ f 6 ++ f 5 ++ f 4 ++ f 3 ++ f 2 ++ f 1 ++ f 0

/-- Word w_j of a Block, lane j: bits [32j+31 : 32j] of the port value (00_scope.md R11, 20_memory.md R42). -/
def wordOf (b : Block) (j : Nat) : Word := b.extractLsb' (32 * j) 32

/-- The Block whose words are w_0, w_1, w_2, w_3 (R42). -/
def blockOfWords (w0 w1 w2 w3 : Word) : Block := w3 ++ w2 ++ w1 ++ w0

/-- Byte i of a word: "Within a word, byte b[4j] is the first byte", at bits 7:0 of the lane (R42). -/
def wordByte (w : Word) (i : Nat) : Byte := w.extractLsb' (8 * i) 8

/-- The word (a0, a1, a2, a3), a0 its first byte (R11, R42). -/
def wordOfBytes (a0 a1 a2 a3 : Byte) : Word := a3 ++ a2 ++ a1 ++ a0

/-- The half a slot belongs to is built: slots 0 to 10 need FWD_VALID, slots 11 to 19 need INV_VALID
(43_control.md R141). -/
def slotBuilt (s : State) (slot : Nat) : Bool := if slot ≤ 10 then s.fwdValid else s.invValid

end Sys2Proof.Machine
end

