-- ==== Sys2Proof/Machine/Gf256.lean ====
section
/-! DEFINITION. The field GF(2^8) of AES (spec/40_primitives.md R70 to R73). Addition is XOR. -/

namespace Sys2Proof.Machine

/-- Multiplication by x (R71). -/
def xtime (a : Byte) : Byte := (a <<< 1) ^^^ (if a.getLsbD 7 then 0x1B#8 else 0x00#8)

/-- `xtime^k(a)` (R72). -/
def xtimeIter : Nat → Byte → Byte
  | 0, a => a
  | k + 1, a => xtime (xtimeIter k a)

/-- `gmul(a, b)`, the loop of R72 over the bits of b. -/
def gmul (a b : Byte) : Byte :=
  [0, 1, 2, 3, 4, 5, 6, 7].foldl (fun r k => if b.getLsbD k then r ^^^ xtimeIter k a else r) 0x00#8

/-- The square of a byte in GF(2^8). -/
def gsquare (a : Byte) : Byte := gmul a a

/-- `ginv(a)` (R73), computed as a^254 = a^2 · a^4 · a^8 · a^16 · a^32 · a^64 · a^128 (DEDUCED, log entry 6: it is the
unique inverse of a nonzero a, and 0x00 for 0x00, as R73 asks). -/
def ginv (a : Byte) : Byte :=
  let p2 := gsquare a
  let p4 := gsquare p2
  let p8 := gsquare p4
  let p16 := gsquare p8
  let p32 := gsquare p16
  let p64 := gsquare p32
  let p128 := gsquare p64
  gmul p2 (gmul p4 (gmul p8 (gmul p16 (gmul p32 (gmul p64 p128)))))

end Sys2Proof.Machine
end

