-- ==== Sys2Proof/Machine/Rounds.lean ====
section
/-! DEFINITION. The transforms of a Block and the round functions (spec/40_primitives.md R77 to R86). -/

namespace Sys2Proof.Machine

/-- `SubBytes` (R77). -/
def subBytes (b : Block) : Block := blockOf fun i => sbox (byteOf b i)

/-- `InvSubBytes` (R77). -/
def invSubBytes (b : Block) : Block := blockOf fun i => invSbox (byteOf b i)

/-- A byte permutation: output byte i takes input byte `from[i]`. -/
def permuteBytes (source : List Nat) (b : Block) : Block := blockOf fun i => byteOf b (source.getD i 0)

/-- `ShiftRows`, as the byte permutation of R78. -/
def shiftRows (b : Block) : Block :=
  permuteBytes [0, 5, 10, 15, 4, 9, 14, 3, 8, 13, 2, 7, 12, 1, 6, 11] b

/-- `InvShiftRows`, as the byte permutation of R79. -/
def invShiftRows (b : Block) : Block :=
  permuteBytes [0, 13, 10, 7, 4, 1, 14, 11, 8, 5, 2, 15, 12, 9, 6, 3] b

/-- `MixColumns` on one column, a word (R80). -/
def mixColumn (w : Word) : Word :=
  let a0 := wordByte w 0
  let a1 := wordByte w 1
  let a2 := wordByte w 2
  let a3 := wordByte w 3
  wordOfBytes
    (gmul 0x02 a0 ^^^ gmul 0x03 a1 ^^^ a2 ^^^ a3)
    (a0 ^^^ gmul 0x02 a1 ^^^ gmul 0x03 a2 ^^^ a3)
    (a0 ^^^ a1 ^^^ gmul 0x02 a2 ^^^ gmul 0x03 a3)
    (gmul 0x03 a0 ^^^ a1 ^^^ a2 ^^^ gmul 0x02 a3)

/-- `InvMixColumns` on one column, a word (R81). -/
def invMixColumn (w : Word) : Word :=
  let a0 := wordByte w 0
  let a1 := wordByte w 1
  let a2 := wordByte w 2
  let a3 := wordByte w 3
  wordOfBytes
    (gmul 0x0e a0 ^^^ gmul 0x0b a1 ^^^ gmul 0x0d a2 ^^^ gmul 0x09 a3)
    (gmul 0x09 a0 ^^^ gmul 0x0e a1 ^^^ gmul 0x0b a2 ^^^ gmul 0x0d a3)
    (gmul 0x0d a0 ^^^ gmul 0x09 a1 ^^^ gmul 0x0e a2 ^^^ gmul 0x0b a3)
    (gmul 0x0b a0 ^^^ gmul 0x0d a1 ^^^ gmul 0x09 a2 ^^^ gmul 0x0e a3)

/-- A transform of each column, "that is word w_c, independently" (R80). -/
def mapColumns (f : Word → Word) (b : Block) : Block :=
  blockOfWords (f (wordOf b 0)) (f (wordOf b 1)) (f (wordOf b 2)) (f (wordOf b 3))

/-- `MixColumns` (R80). -/
def mixColumns (b : Block) : Block := mapColumns mixColumn b

/-- `InvMixColumns` (R81). -/
def invMixColumns (b : Block) : Block := mapColumns invMixColumn b

/-- `AddRoundKey` (R82). -/
def addRoundKey (b k : Block) : Block := b ^^^ k

/-- The full forward round `EncRound` (R83). -/
def encRound (s k : Block) : Block := addRoundKey (mixColumns (shiftRows (subBytes s))) k

/-- The final forward round `EncLastRound` (R84). -/
def encLastRound (s k : Block) : Block := addRoundKey (shiftRows (subBytes s)) k

/-- The full inverse round `DecRound` of the equivalent inverse cipher (R85, and 90_conflicts.md C2): un-mix, then the
round-key XOR. -/
def decRound (s k : Block) : Block := addRoundKey (invMixColumns (invShiftRows (invSubBytes s))) k

/-- The final inverse round `DecLastRound` (R86). -/
def decLastRound (s k : Block) : Block := addRoundKey (invShiftRows (invSubBytes s)) k

end Sys2Proof.Machine
end

