-- ==== Sys2Proof/Machine/Cipher.lean ====
section
/-! DEFINITION. The two pure functions of the block cipher over the key schedule (spec/42_block_cipher.md R120, R121). -/

namespace Sys2Proof.Machine

/-- `Cipher(KS, P)`: the initial round-key XOR, 9 full rounds with KS[1..9], the final round with KS[10] (R120). -/
def cipher (ks : Vector Block 20) (plain : Block) : Block :=
  let s0 := addRoundKey plain ks[0]
  let s9 := [ks[1], ks[2], ks[3], ks[4], ks[5], ks[6], ks[7], ks[8], ks[9]].foldl encRound s0
  encLastRound s9 ks[10]

/-- `InvCipher(KS, C)`: the initial round-key XOR with KS[10], 9 full inverse rounds with KS[11..19] in order, the final
inverse round with KS[0] (R121, R125). -/
def invCipher (ks : Vector Block 20) (crypt : Block) : Block :=
  let s0 := addRoundKey crypt ks[10]
  let s9 := [ks[11], ks[12], ks[13], ks[14], ks[15], ks[16], ks[17], ks[18], ks[19]].foldl decRound s0
  decLastRound s9 ks[0]

end Sys2Proof.Machine
end

