-- ==== Sys2Proof/Syntax.lean ====
section
/-! DEFINITION. The commands of the core, one constructor per row of spec/opcode_table.json (spec/30_encoding.md R56). A
command is a command word together with its 128-bit DIN (R55); a command that uses DIN carries it as its operand
(R58), one that ignores it does not (R61). -/

namespace Sys2Proof

/-- The seven commands (30_encoding.md R56). -/
inductive Instr where
  /-- NOP (43_control.md R140). -/
  | nop
  /-- KEXP, with the cipher key on DIN (41_key_expansion.md R102). -/
  | kexp (key : Block)
  /-- KEXT (41_key_expansion.md R103). -/
  | kext
  /-- KFULL, with the cipher key on DIN (41_key_expansion.md R104). -/
  | kfull (key : Block)
  /-- ENC, with the plaintext on DIN (42_block_cipher.md R122). -/
  | enc (plain : Block)
  /-- DEC, with the ciphertext on DIN (42_block_cipher.md R123). -/
  | dec (crypt : Block)
  /-- RDKS, with the slot index of CMD[12:8] (43_control.md R141, 30_encoding.md R57). -/
  | rdks (slot : Nat)
deriving DecidableEq, Repr

end Sys2Proof
end

