-- ==== Sys2Proof/WellFormed.lean ====
section
/-! DEFINITION. Which terms of `Instr` a command word can express (spec/30_encoding.md R55, R57), and which of them the
assembler accepts (R63). -/

namespace Sys2Proof

/-- The command fits its encoding: SLOT is an unsigned 5-bit field, so an index is 0 to 31 (R57). Indices 20 to 31
are encodable; the core answers them with SLOT_RANGE. -/
def Instr.wf : Instr → Bool
  | .nop => true
  | .kexp _ => true
  | .kext => true
  | .kfull _ => true
  | .enc _ => true
  | .dec _ => true
  | .rdks slot => decide (slot < 32)

/-- The mnemonics of the assembler express the command: "An assembler refuses `rdks` with a slot above 19" (R63). -/
def Instr.assemblable : Instr → Bool
  | .nop => true
  | .kexp _ => true
  | .kext => true
  | .kfull _ => true
  | .enc _ => true
  | .dec _ => true
  | .rdks slot => decide (slot ≤ 19)

end Sys2Proof
end

