-- ==== Sys2Proof/Decode.lean ====
section
/-! DEFINITION. Decoding a command word (spec/30_encoding.md R55, R62), total on every word and rejecting by name, and the
encoder of the same format; the rows of spec/opcode_table.json as data. -/

namespace Sys2Proof

/-- CMD[3:0], the field OP (R55). -/
def opField (cmd : CmdWord) : BitVec 4 := cmd.extractLsb' 0 4

/-- CMD[7:4], the reserved field RSV0 (R55). -/
def rsv0Field (cmd : CmdWord) : BitVec 4 := cmd.extractLsb' 4 4

/-- CMD[12:8], the field SLOT (R55, R57). -/
def slotField (cmd : CmdWord) : BitVec 5 := cmd.extractLsb' 8 5

/-- CMD[31:13], the reserved field RSV1 (R55). -/
def rsv1Field (cmd : CmdWord) : BitVec 19 := cmd.extractLsb' 13 19

/-- Why a word decodes to ILLEGAL (60_exceptions.md R152). The reason is the model's own; the core answers the one code
ILLEGAL for each of them. -/
inductive DecodeError where
  /-- RSV0 or RSV1 is not zero (R60). -/
  | reservedBits
  /-- OP is 0x7 to 0xF (R59). -/
  | reservedOp
  /-- SLOT is not zero with an OP other than RDKS (R60). -/
  | slotNotZero
deriving DecidableEq, Repr

/-- What a command word decodes to: one command, or ILLEGAL (R62). -/
inductive Decoded where
  | command (i : Instr)
  | illegal (why : DecodeError)
deriving DecidableEq, Repr

/-- A command that has no SLOT operand: its SLOT field must be zero (R60). -/
def withoutSlot (cmd : CmdWord) (i : Instr) : Decoded :=
  if slotField cmd = 0 then .command i else .illegal .slotNotZero

/-- `Decode` of R62, with DIN as the operand of the commands that take one (R56, R58). -/
def decode (cmd : CmdWord) (din : Block) : Decoded :=
  if rsv1Field cmd ≠ 0 ∨ rsv0Field cmd ≠ 0 then .illegal .reservedBits
  else
    match (opField cmd).toNat with
    | 0x0 => withoutSlot cmd .nop
    | 0x1 => withoutSlot cmd (.kexp din)
    | 0x2 => withoutSlot cmd .kext
    | 0x3 => withoutSlot cmd (.kfull din)
    | 0x4 => withoutSlot cmd (.enc din)
    | 0x5 => withoutSlot cmd (.dec din)
    | 0x6 => .command (.rdks (slotField cmd).toNat)
    | _ => .illegal .reservedOp

/-- The command word of the format CMD32 (R55): RSV1, SLOT, RSV0 and OP from bit 31 down. -/
def packWord (op : BitVec 4) (slot : BitVec 5) : CmdWord := 0#19 ++ slot ++ 0#4 ++ op

/-- The command word of a command (R56). -/
def encodeWord : Instr → CmdWord
  | .nop => packWord 0x0#4 0
  | .kexp _ => packWord 0x1#4 0
  | .kext => packWord 0x2#4 0
  | .kfull _ => packWord 0x3#4 0
  | .enc _ => packWord 0x4#4 0
  | .dec _ => packWord 0x5#4 0
  | .rdks slot => packWord 0x6#4 (BitVec.ofNat 5 slot)

/-- The DIN a command is issued with: its operand, or 0 where DIN is ignored (R56, R63). -/
def encodeDin : Instr → Block
  | .nop => 0
  | .kexp key => key
  | .kext => 0
  | .kfull key => key
  | .enc plain => plain
  | .dec crypt => crypt
  | .rdks _ => 0

/-- The encoder: the command word and the DIN of a command. -/
def encode (i : Instr) : CmdWord × Block := (encodeWord i, encodeDin i)

/-- A row of spec/opcode_table.json: a word is the row's when it equals `bits` under `mask`. -/
structure OpcodeRow where
  mnemonic : String
  mask : CmdWord
  bits : CmdWord
deriving DecidableEq, Repr

/-- spec/opcode_table.json. -/
def opcodeTable : List OpcodeRow :=
  [ ⟨"NOP", 0xFFFFFFFF#32, 0x00000000#32⟩,
    ⟨"KEXP", 0xFFFFFFFF#32, 0x00000001#32⟩,
    ⟨"KEXT", 0xFFFFFFFF#32, 0x00000002#32⟩,
    ⟨"KFULL", 0xFFFFFFFF#32, 0x00000003#32⟩,
    ⟨"ENC", 0xFFFFFFFF#32, 0x00000004#32⟩,
    ⟨"DEC", 0xFFFFFFFF#32, 0x00000005#32⟩,
    ⟨"RDKS", 0xFFFFE0FF#32, 0x00000006#32⟩ ]

/-- The row of a word. -/
def OpcodeRow.covers (row : OpcodeRow) (cmd : CmdWord) : Bool := cmd &&& row.mask == row.bits

/-- A command's mnemonic, as spec/opcode_table.json spells it. -/
def mnemonicOf : Instr → String
  | .nop => "NOP"
  | .kexp _ => "KEXP"
  | .kext => "KEXT"
  | .kfull _ => "KFULL"
  | .enc _ => "ENC"
  | .dec _ => "DEC"
  | .rdks _ => "RDKS"

/-- The first `nbits` bits of `w` (the bits above them zero), as the command word (bits 31..0) and DIN, which follows it
(bits 159..32). The opcode table gives DIN no bits, so a table word has DIN = 0. -/
def tableCommand (nbits w : Nat) : CmdWord × Block :=
  (BitVec.ofNat 32 (w % 2 ^ nbits), BitVec.ofNat 128 (w % 2 ^ nbits / 2 ^ 32))

/-- The command the decoder reads from a word of the opcode table. -/
def decodeTableWord (nbits w : Nat) : Option Instr :=
  match decode (tableCommand nbits w).1 (tableCommand nbits w).2 with
  | .command i => some i
  | .illegal _ => none

end Sys2Proof
end

