-- ==== Sys2Proof/Machine/Flags.lean ====
section
/-! DEFINITION. The flags FWD_VALID, INV_VALID and ERR, and the STATUS word that reports them (spec/10_state.md R25, R26,
R28, R30; spec/60_exceptions.md R151). -/

namespace Sys2Proof.Machine

/-- The CODE field of a status code (60_exceptions.md R151). -/
def codeBits : Code → BitVec 4
  | .ok => 0x0#4
  | .illegal => 0x1#4
  | .notBuilt => 0x2#4
  | .slotRange => 0x3#4

/-- A flag as a bit. -/
def flagBit (b : Bool) : BitVec 1 := BitVec.ofBool b

/-- STATUS, from bit 31 down: reserved 31:11, ERR, INV_VALID, FWD_VALID, reserved 7:4, CODE (10_state.md R30). -/
def statusWord (code : Code) (fwd inv err : Bool) : StatusWord :=
  0#21 ++ flagBit err ++ flagBit inv ++ flagBit fwd ++ 0#4 ++ codeBits code

/-- STATUS of a command that ends with `code` in state `s`: the flags are read after the command (R30). -/
def statusOf (code : Code) (s : State) : StatusWord := statusWord code s.fwdValid s.invValid s.err

/-- KEXP: the forward half is built, and the inverse half is stale (R25, R26). -/
def markForwardBuilt (s : State) : State := { s with fwdValid := true, invValid := false }

/-- KEXT: the inverse half is built (R26). -/
def markInverseBuilt (s : State) : State := { s with invValid := true }

/-- KFULL: both halves are built (R25, R26). -/
def markBothBuilt (s : State) : State := { s with fwdValid := true, invValid := true }

/-- A command failed (R28). -/
def markError (s : State) : State := { s with err := true }

/-- Reset clears the three flags (70_reset_and_hazards.md R170). -/
def clearFlags (s : State) : State := { s with fwdValid := false, invValid := false, err := false }

end Sys2Proof.Machine
end

