-- ==== Sys2Proof/Machine/Ops.lean ====
section
/-! DEFINITION. The named operations the commands share: writing a half of the schedule, writing DOUT, answering the host,
failing (the one shared operation a failing command takes, in place of an exception: spec/60_exceptions.md R150, R155,
R162), reset, and taking the host's next event. -/

namespace Sys2Proof.Machine

/-- `KS[0..10] <- rk` (41_key_expansion.md R102); slots 11 to 19 keep their bits. -/
def writeForward (s : State) (rk : Vector Block 11) : State :=
  { s with ks := Vector.ofFn fun i : Fin 20 => if h : i.val < 11 then rk[i.val] else s.ks[i.val] }

/-- `KS[11..19] <- dk`, with DK[11] first (41_key_expansion.md R103); slots 0 to 10 keep their bits. -/
def writeInverse (s : State) (dk : Vector Block 9) : State :=
  { s with ks := Vector.ofFn fun i : Fin 20 => if h : 11 ≤ i.val then dk[i.val - 11] else s.ks[i.val] }

/-- `KS[0..10]`, the forward half as it stands. -/
def forwardHalf (ks : Vector Block 20) : Vector Block 11 := Vector.ofFn fun i : Fin 11 => ks[i.val]

/-- `DOUT <- v` (00_scope.md R12). -/
def writeDout (s : State) (v : Block) : State := { s with dout := v }

/-- `respond(code)`: end the command with its STATUS and DOUT (00_scope.md R12, 10_state.md R30, R31). -/
def respond (code : Code) (s : State) : State :=
  { s with responses := s.responses ++ [⟨statusOf code s, s.dout⟩] }

/-- `raise Error(code)`: "`ERR <- 1; respond(code)` with no other state change" (00_scope.md R12, 60_exceptions.md
R155). -/
def raiseError (code : Code) (s : State) : State := respond code (markError s)

/-- The command word decodes to no command: ILLEGAL, "and has no other effect" (30_encoding.md R59, R60). -/
def rejectCommand (s : State) : State := raiseError .illegal s

/-- A reset event: the flags and DOUT are cleared, KS holds any value (70_reset_and_hazards.md R170, 10_state.md R35),
and a new run begins (R179). What the host has yet to issue stays. -/
def applyReset (s : State) : State :=
  { clearFlags s with
    ks := Config.resetSlots s.draws s.ks
    dout := 0
    responses := []
    draws := s.draws + 1 }

/-- Take the host's next event off the port: "Commands take effect in the order the host issues them, one at a time"
(20_memory.md R48). -/
def takeEvent (s : State) : Option (HostEvent × State) :=
  match s.pending with
  | [] => none
  | e :: rest => some (e, { s with pending := rest })

/-- Put one command in front of what the host has yet to issue. -/
def issueFirst (s : State) (cmd : CmdWord) (din : Block) : State :=
  { s with pending := .command cmd din :: s.pending }

end Sys2Proof.Machine
end

