-- ==== Sys2Proof/Machine/BlockCipher.lean ====
section
/-! DEFINITION. The meanings of the block cipher's commands ENC and DEC (spec/42_block_cipher.md R122, R123). -/

namespace Sys2Proof.Machine

/-- ENC (R122). -/
def execEnc (plain : Block) (s : State) : Host.Outcome State Fault Refusal :=
  if s.fwdValid then .next (respond .ok (writeDout s (cipher s.ks plain)))
  else .next (raiseError .notBuilt s)

/-- DEC (R123): the inverse half is never built lazily (R129). -/
def execDec (crypt : Block) (s : State) : Host.Outcome State Fault Refusal :=
  if s.invValid then .next (respond .ok (writeDout s (invCipher s.ks crypt)))
  else .next (raiseError .notBuilt s)

end Sys2Proof.Machine
end

