-- ==== Sys2Proof/Machine/Control.lean ====
section
/-! DEFINITION. The meanings of the control commands NOP and RDKS (spec/43_control.md R140, R141). -/

namespace Sys2Proof.Machine

/-- NOP (R140). -/
def execNop (s : State) : Host.Outcome State Fault Refusal := .next (respond .ok s)

/-- RDKS (R141): SLOT_RANGE comes before NOT_BUILT (60_exceptions.md R156). -/
def execRdks (slot : Nat) (s : State) : Host.Outcome State Fault Refusal :=
  if h : slot < 20 then
    if slotBuilt s slot then .next (respond .ok (writeDout s s.ks[slot]))
    else .next (raiseError .notBuilt s)
  else .next (raiseError .slotRange s)

end Sys2Proof.Machine
end

