-- ==== Sys2Proof/Machine/KeySchedule.lean ====
section
/-! DEFINITION. The key-generation primitives (spec/40_primitives.md R87 to R91) and the two pure functions of the key
expander (spec/41_key_expansion.md R100, R101). -/

namespace Sys2Proof.Machine

/-- `RotWord` (R87). -/
def rotWord (w : Word) : Word := wordOfBytes (wordByte w 1) (wordByte w 2) (wordByte w 3) (wordByte w 0)

/-- `SubWord` (R88). -/
def subWord (w : Word) : Word :=
  wordOfBytes (sbox (wordByte w 0)) (sbox (wordByte w 1)) (sbox (wordByte w 2)) (sbox (wordByte w 3))

/-- `RCON[1..10]` (R89), RCON[1] first. -/
def rconTable : List Byte := [0x01, 0x02, 0x04, 0x08, 0x10, 0x20, 0x40, 0x80, 0x1B, 0x36]

/-- `RCON[i]`, for i in 1..10 (R89). -/
def rcon (i : Nat) : Byte := rconTable.getD (i - 1) 0

/-- `Rcon_i = (RCON[i], 0x00, 0x00, 0x00)` (R89). -/
def rconWord (i : Nat) : Word := wordOfBytes (rcon i) 0x00 0x00 0x00

/-- `KeyGenWord(P, i)` (R90). -/
def keyGenWord (p : Block) (i : Nat) : Word := rotWord (subWord (wordOf p 3)) ^^^ rconWord i

/-- `NextRoundKey(P, T)`: word j is T XOR w_0(P) XOR ... XOR w_j(P) (R91). -/
def nextRoundKey (p : Block) (t : Word) : Block :=
  blockOfWords
    (t ^^^ wordOf p 0)
    (t ^^^ wordOf p 0 ^^^ wordOf p 1)
    (t ^^^ wordOf p 0 ^^^ wordOf p 1 ^^^ wordOf p 2)
    (t ^^^ wordOf p 0 ^^^ wordOf p 1 ^^^ wordOf p 2 ^^^ wordOf p 3)

/-- `RK[i]` of the loop of R100. -/
def roundKey (key : Block) : Nat → Block
  | 0 => key
  | i + 1 => nextRoundKey (roundKey key i) (keyGenWord (roundKey key i) (i + 1))

/-- `ExpandForward(K)`: RK[0..10] (41_key_expansion.md R100). -/
def expandForward (key : Block) : Vector Block 11 := Vector.ofFn fun i : Fin 11 => roundKey key i.val

/-- `ExtendInverse(RK)`: DK[11..19], DK[11] first, with DK[10+j] = InvMixColumns(RK[10-j]) (41_key_expansion.md R101). -/
def extendInverse (rk : Vector Block 11) : Vector Block 9 :=
  Vector.ofFn fun m : Fin 9 => invMixColumns rk[10 - (m.val + 1)]

end Sys2Proof.Machine
end

