-- ==== Sys2Proof/Machine/KeyExpander.lean ====
section
/-! DEFINITION. The meanings of the key expander's commands KEXP, KEXT and KFULL (spec/41_key_expansion.md R102 to
R105). -/

namespace Sys2Proof.Machine

/-- KEXP (R102). -/
def execKexp (key : Block) (s : State) : Host.Outcome State Fault Refusal :=
  .next (respond .ok (markForwardBuilt (writeForward s (expandForward key))))

/-- KEXT (R103). -/
def execKext (s : State) : Host.Outcome State Fault Refusal :=
  if s.fwdValid then
    .next (respond .ok (markInverseBuilt (writeInverse s (extendInverse (forwardHalf s.ks)))))
  else .next (raiseError .notBuilt s)

/-- KFULL (R104). -/
def execKfull (key : Block) (s : State) : Host.Outcome State Fault Refusal :=
  let rk := expandForward key
  .next (respond .ok (markBothBuilt (writeInverse (writeForward s rk) (extendInverse rk))))

end Sys2Proof.Machine
end

