-- ==== Sys2Proof/Machine/Dispatch.lean ====
section
/-! DEFINITION. Every command's meaning, one arm per constructor of `Instr`. -/

namespace Sys2Proof.Machine

-- spec/opcode_table.json, in the table's order
def exec (i : Instr) (s : State) : Host.Outcome State Fault Refusal :=
  match i with
  | .nop => Sys2Proof.Machine.execNop s
  | .kexp key => Sys2Proof.Machine.execKexp key s
  | .kext => Sys2Proof.Machine.execKext s
  | .kfull key => Sys2Proof.Machine.execKfull key s
  | .enc plain => Sys2Proof.Machine.execEnc plain s
  | .dec crypt => Sys2Proof.Machine.execDec crypt s
  | .rdks slot => Sys2Proof.Machine.execRdks slot s

end Sys2Proof.Machine
end

