-- ==== Sys2Proof/Machine/Step.lean ====
section
/-! DEFINITION. One step of the machine: the host's next event, run to its end (spec/10_state.md R20, spec/20_memory.md
R46, R48), and the placing of one command where the next step takes it. -/

namespace Sys2Proof.Machine

/-- One step. A command word that decodes to a command runs it; one that does not fails with ILLEGAL (60_exceptions.md
R152); a reset event resets the core (70_reset_and_hazards.md R170). Where the host has issued nothing the core does
nothing (10_state.md R20; DESIGN CHOICE, log entry 4: that idle step leaves every field as it was). -/
def step (s : State) : Host.Outcome State Fault Refusal :=
  match takeEvent s with
  | none => .next s
  | some (.reset, s') => .next (applyReset s')
  | some (.command cmd din, s') =>
    match decode cmd din with
    | .command i => exec i s'
    | .illegal _ => .next (rejectCommand s')

/-- `s` with the table word `w` (and DIN 0) as the next command the host issues. -/
def State.withFetchWord (s : State) (nbits w : Nat) : State :=
  issueFirst s (tableCommand nbits w).1 (tableCommand nbits w).2

end Sys2Proof.Machine
end

