-- ==== Sys2Proof/Machine/Assembler.lean ====
section
/-! DEFINITION. The assembler of spec/30_encoding.md R63, which turns a line of text into the command word and DIN the host
issues, and the hexadecimal form of Blocks (spec/00_scope.md R10). It is the host's tool: no step of the core uses it. -/

namespace Sys2Proof.Machine

/-- The value of a hexadecimal digit (log entry 8: either case is read). -/
def hexValue (c : Char) : Option Nat :=
  if 48 ≤ c.toNat ∧ c.toNat ≤ 57 then some (c.toNat - 48)
  else if 97 ≤ c.toNat ∧ c.toNat ≤ 102 then some (c.toNat - 87)
  else if 65 ≤ c.toNat ∧ c.toNat ≤ 70 then some (c.toNat - 55)
  else none

/-- Bytes written "two per byte in the order b[0] first" (00_scope.md R10). -/
def hexBytes : List Char → Option (List Byte)
  | [] => some []
  | [_] => none
  | hi :: lo :: rest =>
    match hexValue hi, hexValue lo, hexBytes rest with
    | some h, some l, some bs => some (BitVec.ofNat 8 (16 * h + l) :: bs)
    | _, _, _ => none

/-- A Block written as 32 hex digits, with no `0x` prefix (R10, R63). -/
def blockOfHex (digits : List Char) : Option Block :=
  if digits.length = 32 then (hexBytes digits).map fun bs => blockOf fun i => bs.getD i 0 else none

/-- A command word written as 8 hex digits, "with the most significant digit first" (R63). -/
def cmdOfHex (digits : List Char) : Option CmdWord :=
  match (hexBytes digits) with
  | some [b3, b2, b1, b0] => some (b3 ++ b2 ++ b1 ++ b0)
  | _ => none

/-- The lower-case digit of a value below 16. -/
def hexDigit (n : Nat) : Char :=
  ['0', '1', '2', '3', '4', '5', '6', '7', '8', '9', 'a', 'b', 'c', 'd', 'e', 'f'].getD n '0'

/-- A byte as two digits. -/
def hexOfByte (b : Byte) : List Char := [hexDigit (b.toNat / 16), hexDigit (b.toNat % 16)]

/-- A Block as 32 hex digits, byte b[0] first (R10). -/
def hexOfBlock (b : Block) : List Char :=
  [0, 1, 2, 3, 4, 5, 6, 7, 8, 9, 10, 11, 12, 13, 14, 15].flatMap fun i => hexOfByte (byteOf b i)

/-- A number in decimal digits, read from the most significant digit on. -/
def decimalValue (acc : Nat) : List Char → Option Nat
  | [] => some acc
  | c :: rest =>
    if 48 ≤ c.toNat ∧ c.toNat ≤ 57 then decimalValue (10 * acc + (c.toNat - 48)) rest else none

/-- "`;` starts a comment" (R63). -/
def dropComment : List Char → List Char
  | [] => []
  | c :: rest => if c = ';' then [] else c :: dropComment rest

/-- A separator between a mnemonic and its operands. -/
def isSeparator (c : Char) : Bool := c == ' ' || c == '\t'

/-- The words of a line; `word` is the word being read, its last character first. -/
def splitWords (word : List Char) : List Char → List (List Char)
  | [] => if word = [] then [] else [word.reverse]
  | c :: rest =>
    if isSeparator c then
      if word = [] then splitWords [] rest else word.reverse :: splitWords [] rest
    else splitWords (c :: word) rest

/-- What the assembler makes of a line. -/
inductive Assembled where
  /-- A blank line or a comment: nothing to issue. -/
  | nothing
  /-- The command word and DIN to issue. -/
  | issue (cmd : CmdWord) (din : Block)
  /-- The assembler refuses the line. -/
  | refused
deriving DecidableEq, Repr

/-- A command written with its mnemonic: "A line assembles to the command word of rule R56 … and to a DIN value", unless the
assembler refuses it (R63). -/
def assembleInstr (i : Instr) : Assembled :=
  if i.assemblable then .issue (encodeWord i) (encodeDin i) else .refused

/-- A command that takes a Block. -/
def assembleWithBlock (build : Block → Instr) (digits : List Char) : Assembled :=
  match blockOfHex digits with
  | some b => assembleInstr (build b)
  | none => .refused

/-- `rdks`, its slot in decimal. -/
def assembleRdks (digits : List Char) : Assembled :=
  match digits, decimalValue 0 digits with
  | _ :: _, some slot => assembleInstr (.rdks slot)
  | _, _ => .refused

/-- `.word`: "a raw command word … together with an optional DIN written as a Block (default 0)" (R63). -/
def assembleRaw (cmd : Option CmdWord) (din : Option Block) : Assembled :=
  match cmd, din with
  | some w, some b => .issue w b
  | _, _ => .refused

/-- The forms of a line (R63). -/
def assembleWords : List (List Char) → Assembled
  | [] => .nothing
  | [m] =>
    if m = ['n', 'o', 'p'] then assembleInstr .nop
    else if m = ['k', 'e', 'x', 't'] then assembleInstr .kext
    else .refused
  | [m, a] =>
    if m = ['k', 'e', 'x', 'p'] then assembleWithBlock .kexp a
    else if m = ['k', 'f', 'u', 'l', 'l'] then assembleWithBlock .kfull a
    else if m = ['e', 'n', 'c'] then assembleWithBlock .enc a
    else if m = ['d', 'e', 'c'] then assembleWithBlock .dec a
    else if m = ['r', 'd', 'k', 's'] then assembleRdks a
    else if m = ['.', 'w', 'o', 'r', 'd'] then assembleRaw (cmdOfHex a) (some 0)
    else .refused
  | [m, a, b] =>
    if m = ['.', 'w', 'o', 'r', 'd'] then assembleRaw (cmdOfHex a) (blockOfHex b) else .refused
  | _ => .refused

/-- One line of text. -/
def assembleLine (line : List Char) : Assembled := assembleWords (splitWords [] (dropComment line))

/-- A program, "a sequence of lines the host issues in order, top to bottom" (R63); none where a line is refused. -/
def assembleProgram : List (List Char) → Option (List HostEvent)
  | [] => some []
  | line :: rest =>
    match assembleLine line, assembleProgram rest with
    | .nothing, some es => some es
    | .issue cmd din, some es => some (.command cmd din :: es)
    | _, _ => none

end Sys2Proof.Machine
end

