-- ==== Sys2Proof/Machine/Reference.lean ====
section
/-! DEFINITION. A second, independent reading of the algorithm, in the terms of FIPS-197 (spec/42_block_cipher.md R128): the
field product as polynomials (spec/40_primitives.md R70), the state matrix (spec/00_scope.md R11), the matrices of R80 and
R81, the scalar key recurrence of R92, the cipher and the TRUE inverse cipher over them; and the core as a machine that
holds its key instead of a schedule. No step of the core uses any of it: statements compare the two. -/

namespace Sys2Proof.Machine

/-- The product of two bytes as polynomials over GF(2), not yet reduced (R70). -/
def polyProduct (a b : Byte) : BitVec 16 :=
  [0, 1, 2, 3, 4, 5, 6, 7].foldl
    (fun r k => if b.getLsbD k then r ^^^ (a.setWidth 16 <<< k) else r) 0#16

/-- The remainder of a polynomial of degree below 15 modulo m(x), 0x11B (R70). -/
def polyReduce (p : BitVec 16) : Byte :=
  ([14, 13, 12, 11, 10, 9, 8].foldl
    (fun r d => if r.getLsbD d then r ^^^ (0x011B#16 <<< (d - 8)) else r) p).setWidth 8

/-- `s[r][c] = b[r + 4c]` (00_scope.md R11). -/
def matrixEntry (b : Block) (r c : Nat) : Byte := byteOf b (r + 4 * c)

/-- The Block of a state matrix (R11). -/
def blockOfMatrix (m : Nat → Nat → Byte) : Block := blockOf fun i => m (i % 4) (i / 4)

/-- A matrix of R80 or R81 times each column of the state. -/
def matrixTimes (rows : List (List Byte)) (b : Block) : Block :=
  blockOfMatrix fun r c =>
    let row := rows.getD r []
    gmul (row.getD 0 0) (matrixEntry b 0 c) ^^^ gmul (row.getD 1 0) (matrixEntry b 1 c) ^^^
      gmul (row.getD 2 0) (matrixEntry b 2 c) ^^^ gmul (row.getD 3 0) (matrixEntry b 3 c)

/-- The matrix of R80. -/
def mixMatrix : List (List Byte) :=
  [[0x02, 0x03, 0x01, 0x01], [0x01, 0x02, 0x03, 0x01], [0x01, 0x01, 0x02, 0x03], [0x03, 0x01, 0x01, 0x02]]

/-- The matrix of R81. -/
def invMixMatrix : List (List Byte) :=
  [[0x0e, 0x0b, 0x0d, 0x09], [0x09, 0x0e, 0x0b, 0x0d], [0x0d, 0x09, 0x0e, 0x0b], [0x0b, 0x0d, 0x09, 0x0e]]

/-- SubBytes by the formula of R74. -/
def refSubBytes (b : Block) : Block := blockOfMatrix fun r c => sboxFormula (matrixEntry b r c)

/-- ShiftRows on the state matrix (R78). -/
def refShiftRows (b : Block) : Block := blockOfMatrix fun r c => matrixEntry b r ((c + r) % 4)

/-- InvShiftRows on the state matrix (R79): `(c - r) mod 4`, as `(c + 4 - r) mod 4`. -/
def refInvShiftRows (b : Block) : Block := blockOfMatrix fun r c => matrixEntry b r ((c + 4 - r) % 4)

/-- InvSubBytes on the state matrix, with the inverse permutation of R74 read off its table. -/
def refInvSubBytes (b : Block) : Block := blockOfMatrix fun r c => invSbox (matrixEntry b r c)

/-- `W[k]` of the scalar recurrence (R92). -/
def scheduleWord (key : Block) : Nat → Word
  | 0 => wordOf key 0
  | 1 => wordOf key 1
  | 2 => wordOf key 2
  | 3 => wordOf key 3
  | n + 4 =>
    let temp := scheduleWord key (n + 3)
    scheduleWord key n ^^^
      (if (n + 4) % 4 = 0 then subWord (rotWord temp) ^^^ rconWord ((n + 4) / 4) else temp)

/-- Round key i, "the Block whose words w_0, w_1, w_2, w_3 are W[4i], W[4i+1], W[4i+2], W[4i+3]" (R92). -/
def refRoundKey (key : Block) (i : Nat) : Block :=
  blockOfWords (scheduleWord key (4 * i)) (scheduleWord key (4 * i + 1)) (scheduleWord key (4 * i + 2))
    (scheduleWord key (4 * i + 3))

/-- The slots 11 to 19: the transformed round key 20 - slot (41_key_expansion.md R101). -/
def refInverseSlot (key : Block) (slot : Nat) : Block := matrixTimes invMixMatrix (refRoundKey key (20 - slot))

/-- AES-128 encryption of one block (42_block_cipher.md R128). -/
def refCipher (key plain : Block) : Block :=
  let s9 := [1, 2, 3, 4, 5, 6, 7, 8, 9].foldl
    (fun s r => matrixTimes mixMatrix (refShiftRows (refSubBytes s)) ^^^ refRoundKey key r)
    (plain ^^^ refRoundKey key 0)
  refShiftRows (refSubBytes s9) ^^^ refRoundKey key 10

/-- AES-128 decryption of one block by the TRUE inverse cipher: the untransformed round keys 9 down to 1, and the round-key
XOR before the un-mix (40_primitives.md R85, 95_test_vectors.md V12). -/
def refInvCipher (key crypt : Block) : Block :=
  let s9 := [9, 8, 7, 6, 5, 4, 3, 2, 1].foldl
    (fun s r => matrixTimes invMixMatrix (refInvSubBytes (refInvShiftRows s) ^^^ refRoundKey key r))
    (crypt ^^^ refRoundKey key 10)
  refInvSubBytes (refInvShiftRows s9) ^^^ refRoundKey key 0

/-- The core seen from the host: it holds the key of the schedule it built, if it built one, and no slot. -/
structure KeyMachine where
  key : Option Block
  invBuilt : Bool
  err : Bool
  dout : Block
deriving DecidableEq, Repr

/-- A failing command (60_exceptions.md R155). -/
def KeyMachine.fail (m : KeyMachine) (code : Code) : KeyMachine × Code := ({ m with err := true }, code)

/-- What RDKS of an existing slot answers (43_control.md R141). -/
def KeyMachine.readSlot (m : KeyMachine) (slot : Nat) : KeyMachine × Code :=
  match m.key with
  | none => m.fail .notBuilt
  | some key =>
    if slot ≤ 10 then ({ m with dout := refRoundKey key slot }, .ok)
    else if m.invBuilt then ({ m with dout := refInverseSlot key slot }, .ok)
    else m.fail .notBuilt

/-- One command word with its DIN: the legal words of 30_encoding.md R62, each with its command's rule. -/
def KeyMachine.command (m : KeyMachine) (cmd : CmdWord) (din : Block) : KeyMachine × Code :=
  if cmd = 0x00000000#32 then (m, .ok)
  else if cmd = 0x00000001#32 then ({ m with key := some din, invBuilt := false }, .ok)
  else if cmd = 0x00000002#32 then
    match m.key with
    | none => m.fail .notBuilt
    | some _ => ({ m with invBuilt := true }, .ok)
  else if cmd = 0x00000003#32 then ({ m with key := some din, invBuilt := true }, .ok)
  else if cmd = 0x00000004#32 then
    match m.key with
    | none => m.fail .notBuilt
    | some key => ({ m with dout := refCipher key din }, .ok)
  else if cmd = 0x00000005#32 then
    match m.key, m.invBuilt with
    | some key, true => ({ m with dout := refInvCipher key din }, .ok)
    | _, _ => m.fail .notBuilt
  else if cmd &&& 0xFFFFE0FF#32 = 0x00000006#32 then
    let slot := (cmd >>> 8).toNat
    if 20 ≤ slot then m.fail .slotRange else m.readSlot slot
  else m.fail .illegal

/-- The machine after reset (10_state.md R34). -/
def KeyMachine.reset : KeyMachine where
  key := none
  invBuilt := false
  err := false
  dout := 0

end Sys2Proof.Machine
end

