-- ==== Sys2Proof/Safety.lean ====
section
/-! DEFINITION. The terms statements use: the fields of STATUS, an answer, a failing command, a run that succeeds, the
invariants of the core, and what a host can see. -/

namespace Sys2Proof.Machine

/-- STATUS[3:0], CODE (spec/10_state.md R30). -/
def statusCode (w : StatusWord) : BitVec 4 := w.extractLsb' 0 4

/-- STATUS reads `code` and the flags of `t`, and its reserved bits read zero (10_state.md R30). -/
structure StatusReads (w : StatusWord) (code : Code) (t : State) : Prop where
  code : w.extractLsb' 0 4 = codeBits code
  reservedLow : w.extractLsb' 4 4 = 0#4
  fwd : w.getLsbD 8 = t.fwdValid
  inv : w.getLsbD 9 = t.invValid
  err : w.getLsbD 10 = t.err
  reservedHigh : w.extractLsb' 11 21 = 0#21

/-- A command taken in `s` ended in `t` with `code`: one response more, with STATUS and DOUT as they stand after the
command (10_state.md R30, R31). -/
def Answered (code : Code) (s t : State) : Prop :=
  ∃ r : Response, t.responses = s.responses ++ [r] ∧ StatusReads r.status code t ∧ r.dout = t.dout

/-- The port and the model's counter are as they were: no command issues, withdraws or draws anything. -/
def SamePort (s t : State) : Prop := t.pending = s.pending ∧ t.draws = s.draws

/-- "a failing command changes only ERR" (60_exceptions.md R155), and is answered with its code. -/
def FailedWith (code : Code) (s t : State) : Prop :=
  t.ks = s.ks ∧ t.fwdValid = s.fwdValid ∧ t.invValid = s.invValid ∧ t.dout = s.dout ∧ t.err = true ∧
    Answered code s t ∧ SamePort s t

/-- Every word with the OP `op` that is no command's word (reserved bits not zero, or SLOT not zero with an OP other than
RDKS) is answered ILLEGAL, and changes only ERR (30_encoding.md R60, 60_exceptions.md R155). -/
def MalformedWordsFail (op : Nat) : Prop :=
  ∀ (s : State) (cmd : CmdWord) (din : Block) (rest : List HostEvent), s.pending = .command cmd din :: rest →
    cmd.toNat % 16 = op →
    cmd.toNat / 16 % 16 ≠ 0 ∨ cmd.toNat / 2 ^ 13 ≠ 0 ∨ (cmd.toNat / 2 ^ 8 % 2 ^ 5 ≠ 0 ∧ op ≠ 6) →
      ∃ t, step s = .next t ∧ FailedWith .illegal { s with pending := rest } t

/-- A response is a recorded fault of the host's program (60_exceptions.md R158). -/
def Response.failed (r : Response) : Prop := statusCode r.status ≠ 0#4

/-- "A run succeeds when no response has CODE ≠ 0" (70_reset_and_hazards.md R179). -/
def RunSucceeded (s : State) : Prop := ∀ r ∈ s.responses, statusCode r.status = 0#4

/-- The invariant of R27: the built halves hold the schedule of the key in slot 0 (R22, R23, 41_key_expansion.md R106), and
the inverse half is built only over a forward half. -/
structure ScheduleInv (s : State) : Prop where
  invNeedsFwd : s.invValid = true → s.fwdValid = true
  forward : s.fwdValid = true → ∀ i : Fin 20, i.val ≤ 10 → s.ks[i] = roundKey s.ks[0] i.val
  inverse : s.invValid = true → ∀ j : Nat, ∀ _ : 1 ≤ j ∧ j ≤ 9, s.ks[10 + j] = invMixColumns s.ks[10 - j]

/-- ERR is 1 exactly when the current run has a failed response (R28, R158, R179). -/
def ErrRecordsFailures (s : State) : Prop := s.err = true ↔ ∃ r ∈ s.responses, r.failed

/-- Every response of the run has a status code of R151 and reserved bits that read zero (R30). -/
def ResponsesLegal (s : State) : Prop :=
  ∀ r ∈ s.responses, statusCode r.status ≤ 3#4 ∧ r.status.extractLsb' 4 4 = 0#4 ∧ r.status.extractLsb' 11 21 = 0#21

/-- Two states a host cannot tell apart: everything is equal but the slots of a half that is not built (10_state.md
R33). -/
structure SameToHost (s t : State) : Prop where
  fwd : t.fwdValid = s.fwdValid
  inv : t.invValid = s.invValid
  err : t.err = s.err
  dout : t.dout = s.dout
  responses : t.responses = s.responses
  pending : t.pending = s.pending
  draws : t.draws = s.draws
  forwardSlots : s.fwdValid = true → ∀ i : Fin 20, i.val ≤ 10 → t.ks[i] = s.ks[i]
  inverseSlots : s.invValid = true → ∀ i : Fin 20, 11 ≤ i.val → t.ks[i] = s.ks[i]

/-- The slots a command may read (10_state.md R24). -/
def readsSlot (i : Instr) (slot : Nat) : Prop :=
  match i with
  | .nop => False
  | .kexp _ => False
  | .kext => 1 ≤ slot ∧ slot ≤ 9
  | .kfull _ => False
  | .enc _ => slot ≤ 10
  | .dec _ => slot = 0 ∨ 10 ≤ slot
  | .rdks n => slot = n

/-- The slots a command may write (10_state.md R24). -/
def writesSlot (i : Instr) (slot : Nat) : Prop :=
  match i with
  | .nop => False
  | .kexp _ => slot ≤ 10
  | .kext => 11 ≤ slot
  | .kfull _ => True
  | .enc _ => False
  | .dec _ => False
  | .rdks _ => False

/-- The schedule half a command needs is missing: the list of 60_exceptions.md R154. -/
def needsUnbuiltHalf (i : Instr) (s : State) : Prop :=
  match i with
  | .nop => False
  | .kexp _ => False
  | .kext => s.fwdValid = false
  | .kfull _ => False
  | .enc _ => s.fwdValid = false
  | .dec _ => s.invValid = false
  | .rdks n => (n ≤ 10 ∧ s.fwdValid = false) ∨ (11 ≤ n ∧ n ≤ 19 ∧ s.invValid = false)

/-- The command word decodes to KEXP or KFULL: it re-keys the core (30_encoding.md R62). -/
def buildsForward (cmd : CmdWord) : Prop := cmd = 0x00000001#32 ∨ cmd = 0x00000003#32

/-- The key of "the most recent successful KEXP or KFULL command" among `events`, `key` before them (10_state.md R22);
reset takes it away (R25). -/
def lastKey (key : Option Block) : List HostEvent → Option Block
  | [] => key
  | .reset :: rest => lastKey none rest
  | .command cmd din :: rest =>
    if cmd = 0x00000001#32 ∨ cmd = 0x00000003#32 then lastKey (some din) rest else lastKey key rest

/-- The core is in step with the machine that holds the key: same flags and DOUT, and the built slots are that key's. -/
structure Holds (s : State) (m : KeyMachine) : Prop where
  fwd : s.fwdValid = m.key.isSome
  inv : s.invValid = m.invBuilt
  invNeedsFwd : s.invValid = true → s.fwdValid = true
  err : s.err = m.err
  dout : s.dout = m.dout
  forward : ∀ key, m.key = some key → ∀ i : Fin 20, i.val ≤ 10 → s.ks[i] = refRoundKey key i.val
  inverse : ∀ key, m.key = some key → m.invBuilt = true →
    ∀ i : Fin 20, 11 ≤ i.val → s.ks[i] = refInverseSlot key i.val

/-- `k` steps of the core. -/
def runSteps (k : Nat) (s : State) : Host.Outcome State Fault Refusal := Host.Core.run Sys2Proof.core k s

end Sys2Proof.Machine
end

