-- ==== Sys2Proof/Certificates/Slice0/Obligations.lean ====
section
/-! DEFINITION. The statements about the core for the provers, in the order of OBLIGATIONS.json. -/

open Sys2Proof Sys2Proof.Machine

/-! ### Encoding (spec/30_encoding.md) -/

/-- Words written out from the encoding tables decode to the commands they stand for (30_encoding.md R55, R56, and the
rows of 95_test_vectors.md V13). -/
def Obligations.WrittenOutWordsDecode : Prop :=
  ∀ din : Block,
    decode 0b0000000000000000000_00000_0000_0000#32 din = .command .nop ∧
    decode 0b0000000000000000000_00000_0000_0001#32 din = .command (.kexp din) ∧
    decode 0b0000000000000000000_00000_0000_0010#32 din = .command .kext ∧
    decode 0b0000000000000000000_00000_0000_0011#32 din = .command (.kfull din) ∧
    decode 0b0000000000000000000_00000_0000_0100#32 din = .command (.enc din) ∧
    decode 0b0000000000000000000_00000_0000_0101#32 din = .command (.dec din) ∧
    decode 0b0000000000000000000_10011_0000_0110#32 din = .command (.rdks 19) ∧
    decode 0b0000000000000000000_11111_0000_0110#32 din = .command (.rdks 31)

/-- Decoding the encoding of a well-formed command gives the command back, with every operand at every value. -/
def Obligations.DecodeOfEncodeGivesTheCommand : Prop :=
  ∀ i : Instr, i.wf = true → decode (encode i).1 (encode i).2 = .command i

/-- R62: each command has exactly its words, "The legal command words are therefore exactly 0x00000000 to 0x00000005, and
0x00000006 | (s << 8) for s = 0..31", and every other word is ILLEGAL; of the RDKS words, 20 to 31 fail when executed. -/
def Obligations.LegalWordsAreExactlyThese : Prop :=
  ∀ (cmd : CmdWord) (din : Block) (i : Instr),
    (decode cmd din = .command i ↔
      (cmd = 0x00000000#32 ∧ i = .nop) ∨ (cmd = 0x00000001#32 ∧ i = .kexp din) ∨
      (cmd = 0x00000002#32 ∧ i = .kext) ∨ (cmd = 0x00000003#32 ∧ i = .kfull din) ∨
      (cmd = 0x00000004#32 ∧ i = .enc din) ∨ (cmd = 0x00000005#32 ∧ i = .dec din) ∨
      ∃ s : Nat, s < 32 ∧ cmd = 0x00000006#32 ||| (BitVec.ofNat 32 s <<< 8) ∧ i = .rdks s) ∧
    ((∃ why, decode cmd din = .illegal why) ↔
      5 < cmd.toNat ∧ ∀ s : Nat, s < 32 → cmd ≠ 0x00000006#32 ||| (BitVec.ofNat 32 s <<< 8)) ∧
    ∀ (slot : Nat) (s : State), 20 ≤ slot → slot < 32 → ∃ t, exec (.rdks slot) s = .next t ∧ FailedWith .slotRange s t

/-- R152: a word is ILLEGAL, and is answered so, exactly when it has "a reserved OP (0x7–0xF), nonzero RSV0 or RSV1 bits, or
nonzero SLOT with an OP other than RDKS". -/
def Obligations.IllegalWordsByField : Prop :=
  ∀ (cmd : CmdWord) (din : Block),
    let reserved := 7 ≤ cmd.toNat % 16 ∨ cmd.toNat / 16 % 16 ≠ 0 ∨ cmd.toNat / 2 ^ 13 ≠ 0 ∨
      (cmd.toNat / 2 ^ 8 % 2 ^ 5 ≠ 0 ∧ cmd.toNat % 16 ≠ 6)
    ((∃ why, decode cmd din = .illegal why) ↔ reserved) ∧
    ∀ (s : State) (rest : List HostEvent), s.pending = .command cmd din :: rest →
      ((∃ t, step s = .next t ∧ Answered .illegal s t) ↔ reserved)

/-- The rows of spec/opcode_table.json (match and mask) do not overlap and decide the decoder: the row of a word, if it
has one, names the command it decodes to. -/
def Obligations.OpcodeTableRowsDecideDecoding : Prop :=
  ∀ (cmd : CmdWord) (din : Block),
    (∀ i : Instr, decode cmd din = .command i →
      (opcodeTable.filter (fun row => row.covers cmd)).map (fun row => row.mnemonic) = [mnemonicOf i]) ∧
    (∀ why, decode cmd din = .illegal why → opcodeTable.filter (fun row => row.covers cmd) = [])

/-- R61: DIN never decides whether a word is legal, and for NOP, KEXT and RDKS "Any 128-bit DIN is accepted for them and
has no effect on any result or state". -/
def Obligations.DinIsIgnoredWhereUnused : Prop :=
  (∀ (cmd : CmdWord) (din din' : Block),
    (∃ why, decode cmd din = .illegal why) ↔ (∃ why, decode cmd din' = .illegal why)) ∧
  (∀ (cmd : CmdWord) (din din' : Block) (s : State) (rest : List HostEvent),
    cmd = 0x00000000#32 ∨ cmd = 0x00000002#32 ∨ cmd &&& 0xFFFFE0FF#32 = 0x00000006#32 →
      step { s with pending := .command cmd din :: rest } = step { s with pending := .command cmd din' :: rest })

/-! ### The step and the command port -/

/-- When the host's next command word decodes to a command, a step is that command's meaning, run after the word has left
the port. -/
def Obligations.StepRunsTheDecodedCommand : Prop :=
  ∀ (s : State) (cmd : CmdWord) (din : Block) (rest : List HostEvent) (i : Instr),
    s.pending = .command cmd din :: rest → decode cmd din = .command i →
      step s = exec i { s with pending := rest }

/-- When the host's next command word is ILLEGAL, the step ends with a response of code ILLEGAL that changes only ERR
(30_encoding.md R59, R60; 60_exceptions.md R155). -/
def Obligations.StepAnswersIllegalWords : Prop :=
  ∀ (s : State) (cmd : CmdWord) (din : Block) (rest : List HostEvent) (why : DecodeError),
    s.pending = .command cmd din :: rest → decode cmd din = .illegal why →
      ∃ t, step s = .next t ∧ FailedWith .illegal { s with pending := rest } t

/-- R178: "a model's command step is total, and no command can hang": every step, from every state, ends in a next
state. -/
def Obligations.EveryStepEndsInANextState : Prop :=
  ∀ s : State, ∃ t, step s = .next t

/-- A step with nothing issued leaves the machine as it was: "nothing in the core runs between commands" (10_state.md R20).
That an idle step exists at all is the model's choice (log entry 4). -/
def Obligations.IdleStepLeavesEverything : Prop :=
  ∀ s : State, s.pending = [] → step s = .next s

/-- R34: "After reset: FWD_VALID = 0, INV_VALID = 0, ERR = 0, DOUT = 0x0 (all 128 bits zero)", of the state the machine
starts in and of the state after a reset event taken in any state. -/
def Obligations.ResetClearsFlagsAndDout : Prop :=
  (State.reset.fwdValid = false ∧ State.reset.invValid = false ∧ State.reset.err = false ∧ State.reset.dout = 0) ∧
  (∀ (s : State) (rest : List HostEvent), s.pending = .reset :: rest →
    ∃ t, step s = .next t ∧ t.fwdValid = false ∧ t.invValid = false ∧ t.err = false ∧ t.dout = 0)

/-- Commands leave the port one at a time in the order issued, and each is answered once, after all earlier ones
(20_memory.md R48, 60_exceptions.md R150). -/
def Obligations.CommandsAreAnsweredInOrder : Prop :=
  ∀ (s : State) (cmd : CmdWord) (din : Block) (rest : List HostEvent),
    s.pending = .command cmd din :: rest →
      ∃ t r, step s = .next t ∧ t.pending = rest ∧ t.responses = s.responses ++ [r] ∧ r.dout = t.dout

/-- A run of everything the host issued finishes: as many steps as there are events empty the port, and, without a reset
among them, every command has its response (70_reset_and_hazards.md R174, R178, R179). That the port is this list, and that a reset takes
only itself off it, is the model's choice (log entry 3). -/
def Obligations.IssuedCommandsAllFinish : Prop :=
  ∀ s : State, ∃ t, runSteps s.pending.length s = .next t ∧ t.pending = [] ∧
    (HostEvent.reset ∉ s.pending → t.responses.length = s.responses.length + s.pending.length)

/-! ### The seven commands -/

/-- R140: NOP answers OK in every state and changes nothing else; a malformed word of its OP fails with ILLEGAL. -/
def Obligations.NopOnlyReportsStatus : Prop :=
  encode .nop = (0x00000000#32, 0) ∧ MalformedWordsFail 0 ∧
  ∀ s : State, ∃ t, exec .nop s = .next t ∧
    t.ks = s.ks ∧ t.fwdValid = s.fwdValid ∧ t.invValid = s.invValid ∧ t.err = s.err ∧ t.dout = s.dout ∧
    Answered .ok s t ∧ SamePort s t

/-- R102: KEXP writes `ExpandForward(DIN)` to slots 0 to 10 and leaves 11 to 19, sets FWD_VALID and clears INV_VALID;
a malformed word of its OP fails with ILLEGAL. -/
def Obligations.KexpBuildsTheForwardHalf : Prop :=
  ∀ (key : Block) (s : State),
    encode (.kexp key) = (0x00000001#32, key) ∧ MalformedWordsFail 1 ∧
    ∃ t, exec (.kexp key) s = .next t ∧
      (∀ i : Fin 20, t.ks[i] = if i.val ≤ 10 then roundKey key i.val else s.ks[i]) ∧
      t.fwdValid = true ∧ t.invValid = false ∧ t.err = s.err ∧ t.dout = s.dout ∧
      Answered .ok s t ∧ SamePort s t

/-- R103: KEXT, with FWD_VALID = 1, writes InvMixColumns of slots 9 to 1 to slots 11 to 19, leaves 0 to 10, and sets
INV_VALID; with FWD_VALID = 0 it fails with NOT_BUILT, and a malformed word of its OP fails with ILLEGAL. -/
def Obligations.KextBuildsTheInverseHalf : Prop :=
  ∀ s : State,
    encode .kext = (0x00000002#32, 0) ∧ MalformedWordsFail 2 ∧
    (s.fwdValid = true → ∃ t, exec .kext s = .next t ∧
      (∀ i : Fin 20, i.val ≤ 10 → t.ks[i] = s.ks[i]) ∧
      (∀ j : Nat, ∀ _ : 1 ≤ j ∧ j ≤ 9, t.ks[10 + j] = invMixColumns s.ks[10 - j]) ∧
      t.fwdValid = true ∧ t.invValid = true ∧ t.err = s.err ∧ t.dout = s.dout ∧
      Answered .ok s t ∧ SamePort s t) ∧
    (s.fwdValid = false → ∃ t, exec .kext s = .next t ∧ FailedWith .notBuilt s t)

/-- R104: KFULL writes all 20 slots from the key on DIN and sets both valid flags; a malformed word of its OP fails with
ILLEGAL. -/
def Obligations.KfullBuildsBothHalves : Prop :=
  ∀ (key : Block) (s : State),
    encode (.kfull key) = (0x00000003#32, key) ∧ MalformedWordsFail 3 ∧
    ∃ t, exec (.kfull key) s = .next t ∧
      (∀ i : Fin 20, i.val ≤ 10 → t.ks[i] = roundKey key i.val) ∧
      (∀ j : Nat, ∀ _ : 1 ≤ j ∧ j ≤ 9, t.ks[10 + j] = invMixColumns (roundKey key (10 - j))) ∧
      t.fwdValid = true ∧ t.invValid = true ∧ t.err = s.err ∧ t.dout = s.dout ∧
      Answered .ok s t ∧ SamePort s t

/-- R122: ENC, with FWD_VALID = 1, writes `Cipher(KS[0..10], DIN)` to DOUT and nothing else, whatever INV_VALID is; with
FWD_VALID = 0 it fails with NOT_BUILT, and a malformed word of its OP fails with ILLEGAL. -/
def Obligations.EncWritesTheCiphertext : Prop :=
  ∀ (plain : Block) (s : State),
    encode (.enc plain) = (0x00000004#32, plain) ∧ MalformedWordsFail 4 ∧
    (s.fwdValid = true → ∃ t, exec (.enc plain) s = .next t ∧ t.dout = cipher s.ks plain ∧
      t.ks = s.ks ∧ t.fwdValid = s.fwdValid ∧ t.invValid = s.invValid ∧ t.err = s.err ∧
      Answered .ok s t ∧ SamePort s t) ∧
    (s.fwdValid = false → ∃ t, exec (.enc plain) s = .next t ∧ FailedWith .notBuilt s t)

/-- R123: DEC, with INV_VALID = 1, writes `InvCipher(KS[0..19], DIN)` to DOUT and nothing else; with INV_VALID = 0 it fails
with NOT_BUILT, whatever FWD_VALID is, and a malformed word of its OP fails with ILLEGAL. -/
def Obligations.DecWritesThePlaintext : Prop :=
  ∀ (crypt : Block) (s : State),
    encode (.dec crypt) = (0x00000005#32, crypt) ∧ MalformedWordsFail 5 ∧
    (s.invValid = true → ∃ t, exec (.dec crypt) s = .next t ∧ t.dout = invCipher s.ks crypt ∧
      t.ks = s.ks ∧ t.fwdValid = s.fwdValid ∧ t.invValid = s.invValid ∧ t.err = s.err ∧
      Answered .ok s t ∧ SamePort s t) ∧
    (s.invValid = false → ∃ t, exec (.dec crypt) s = .next t ∧ FailedWith .notBuilt s t)

/-- R141: RDKS of a slot of a built half writes the slot to DOUT and nothing else; of a slot of an unbuilt half it fails
with NOT_BUILT; of 20 to 31 it fails with SLOT_RANGE, whatever is built. A malformed word of its OP fails with
ILLEGAL. -/
def Obligations.RdksReadsTheSlot : Prop :=
  (∀ slot : Nat, slot < 32 →
    encode (.rdks slot) = (0x00000006#32 ||| (BitVec.ofNat 32 slot <<< 8), 0)) ∧
  MalformedWordsFail 6 ∧
  ∀ s : State,
    (∀ slot : Fin 20, (slot.val ≤ 10 → s.fwdValid = true) → (11 ≤ slot.val → s.invValid = true) →
      ∃ t, exec (.rdks slot.val) s = .next t ∧ t.dout = s.ks[slot] ∧
        t.ks = s.ks ∧ t.fwdValid = s.fwdValid ∧ t.invValid = s.invValid ∧ t.err = s.err ∧
        Answered .ok s t ∧ SamePort s t) ∧
    (∀ slot : Nat, slot ≤ 10 → s.fwdValid = false →
      ∃ t, exec (.rdks slot) s = .next t ∧ FailedWith .notBuilt s t) ∧
    (∀ slot : Nat, 11 ≤ slot → slot ≤ 19 → s.invValid = false →
      ∃ t, exec (.rdks slot) s = .next t ∧ FailedWith .notBuilt s t) ∧
    (∀ slot : Nat, 20 ≤ slot → slot < 32 → ∃ t, exec (.rdks slot) s = .next t ∧ FailedWith .slotRange s t)

/-! ### What commands read, write and report -/

/-- R24: a command writes no slot outside its row of the table, and no slot outside its row's reads can change anything it
does. -/
def Obligations.CommandsReadAndWriteOnlyTheirSlots : Prop :=
  ∀ (i : Instr) (s s' t t' : State),
    exec i s = .next t → exec i s' = .next t' →
      (∀ slot : Fin 20, ¬ writesSlot i slot.val → t.ks[slot] = s.ks[slot]) ∧
      ((s' = { s with ks := s'.ks } ∧ ∀ slot : Fin 20, readsSlot i slot.val → s'.ks[slot] = s.ks[slot]) →
        t' = { t with ks := t'.ks } ∧
        (Answered .ok s t → ∀ slot : Fin 20, writesSlot i slot.val → t'.ks[slot] = t.ks[slot]))

/-- R25 and R26: what each event of the port does to the valid flags, and that nothing else changes them. -/
def Obligations.ValidFlagsChangeOnlyByTheirCommands : Prop :=
  ∀ (s t : State), step s = .next t →
    (s.pending = [] → t.fwdValid = s.fwdValid ∧ t.invValid = s.invValid) ∧
    (∀ rest, s.pending = .reset :: rest → t.fwdValid = false ∧ t.invValid = false) ∧
    (∀ cmd din rest, s.pending = .command cmd din :: rest →
      (t.fwdValid = true ↔ s.fwdValid = true ∨ cmd = 0x00000001#32 ∨ cmd = 0x00000003#32) ∧
      (t.invValid = true ↔ cmd = 0x00000003#32 ∨ (cmd = 0x00000002#32 ∧ s.fwdValid = true) ∨
        (s.invValid = true ∧ cmd ≠ 0x00000001#32)))

/-- R31: DOUT "is written only by a successful ENC (ciphertext), a successful DEC (plaintext) or a successful RDKS (the slot
value). Every other command, and every failing command, leaves it unchanged." -/
def Obligations.DoutIsWrittenOnlyBySuccessfulReads : Prop :=
  ∀ (i : Instr) (s t : State), exec i s = .next t → t.dout ≠ s.dout →
    Answered .ok s t ∧
      ((∃ plain, i = .enc plain ∧ t.dout = cipher s.ks plain) ∨
       (∃ crypt, i = .dec crypt ∧ t.dout = invCipher s.ks crypt) ∨
       (∃ slot : Fin 20, i = .rdks slot.val ∧ t.dout = s.ks[slot]))

/-- R155: a command that is answered with a code other than OK sets ERR, "writes no KS slot, does not change FWD_VALID or
INV_VALID, and leaves DOUT unchanged". -/
def Obligations.FailingCommandsChangeOnlyErr : Prop :=
  ∀ (s t : State) (cmd : CmdWord) (din : Block) (rest : List HostEvent) (r : Response),
    s.pending = .command cmd din :: rest → step s = .next t → t.responses = s.responses ++ [r] → r.failed →
      t = { s with err := true, responses := t.responses, pending := rest } ∧ r.dout = s.dout

/-- R154: NOT_BUILT is raised by exactly the listed commands in exactly the listed states. -/
def Obligations.NotBuiltExactlyForAnUnbuiltHalf : Prop :=
  ∀ (i : Instr) (s t : State), exec i s = .next t →
    (Answered .notBuilt s t ↔ needsUnbuiltHalf i s)

/-- R156: every command word, in every state, is answered with exactly one code, and ILLEGAL comes before SLOT_RANGE, which
comes before NOT_BUILT. The causes are read off the bits of the word. -/
def Obligations.OneCodeByPriority : Prop :=
  ∀ (s : State) (cmd : CmdWord) (din : Block) (rest : List HostEvent),
    s.pending = .command cmd din :: rest →
    let op := cmd.toNat % 16
    let slot := cmd.toNat / 2 ^ 8 % 2 ^ 5
    let illegal := 7 ≤ op ∨ cmd.toNat / 16 % 16 ≠ 0 ∨ cmd.toNat / 2 ^ 13 ≠ 0 ∨ (slot ≠ 0 ∧ op ≠ 6)
    let outOfRange := op = 6 ∧ 20 ≤ slot
    let notBuilt := ((op = 2 ∨ op = 4 ∨ (op = 6 ∧ slot ≤ 10)) ∧ s.fwdValid = false) ∨
      ((op = 5 ∨ (op = 6 ∧ 11 ≤ slot)) ∧ s.invValid = false)
    ∃ t r, step s = .next t ∧ t.responses = s.responses ++ [r] ∧
      (illegal → statusCode r.status = 0x1#4) ∧
      (¬ illegal → outOfRange → statusCode r.status = 0x3#4) ∧
      (¬ illegal → ¬ outOfRange → notBuilt → statusCode r.status = 0x2#4) ∧
      (¬ illegal → ¬ outOfRange → ¬ notBuilt → statusCode r.status = 0x0#4)

/-- R30 and R151: STATUS of every command carries the code of its cause, the three flags as they stand after the command,
and zeros in every reserved bit. -/
def Obligations.StatusReportsFlagsAfterTheCommand : Prop :=
  ∀ (s t : State) (cmd : CmdWord) (din : Block) (rest : List HostEvent),
    s.pending = .command cmd din :: rest → step s = .next t →
      ∃ r, t.responses = s.responses ++ [r] ∧
        (r.status.extractLsb' 0 4 = 0x1#4 ↔ ∃ why, decode cmd din = .illegal why) ∧
        (r.status.extractLsb' 0 4 = 0x2#4 ↔ ∃ i, decode cmd din = .command i ∧ needsUnbuiltHalf i s) ∧
        (r.status.extractLsb' 0 4 = 0x3#4 ↔ ∃ slot, decode cmd din = .command (.rdks slot) ∧ 20 ≤ slot) ∧
        r.status.extractLsb' 0 4 ≤ 3#4 ∧ r.status.extractLsb' 4 4 = 0#4 ∧
        r.status.getLsbD 8 = t.fwdValid ∧ r.status.getLsbD 9 = t.invValid ∧ r.status.getLsbD 10 = t.err ∧
        r.status.extractLsb' 11 21 = 0#21 ∧ (r.status.extractLsb' 0 4 ≠ 0#4 → r.status.getLsbD 10 = true)

/-- R157: "Once any command fails, ERR stays 1 in every later STATUS until reset", over every run; and "The host can still
issue commands after a failure, and they execute normally": ERR decides nothing a command does to the slots, the valid
flags or DOUT, nor its code. -/
def Obligations.ErrIsStickyAndOtherwiseIdle : Prop :=
  (∀ (k : Nat) (s t : State), s.err = true → HostEvent.reset ∉ s.pending.take k → runSteps k s = .next t →
    t.err = true ∧
      ∃ later : List Response, t.responses = s.responses ++ later ∧ ∀ r ∈ later, r.status.getLsbD 10 = true) ∧
  (∀ (i : Instr) (s t : State), exec i { s with err := false } = .next t →
    ∃ u, exec i { s with err := true } = .next u ∧
      u.ks = t.ks ∧ u.fwdValid = t.fwdValid ∧ u.invValid = t.invValid ∧ u.dout = t.dout ∧ u.err = true ∧
      ∀ code, Answered code s t → Answered code s u)

/-- A command leaves the rest of the port and the model's counter alone, and neither they nor the responses before it
change what it does: "Every output of every command is a function of the command word, DIN and the state of rules R21 to
R31 alone" (10_state.md R32, 20_memory.md R47). -/
def Obligations.CommandsDependOnlyOnTheRegisters : Prop :=
  ∀ (i : Instr) (s t : State) (pending : List HostEvent) (responses : List Response) (draws : Nat),
    exec i s = .next t →
      SamePort s t ∧
      ∃ r, t.responses = s.responses ++ [r] ∧
        exec i { s with pending := pending, responses := responses, draws := draws } =
          .next { t with pending := pending, responses := responses ++ [r], draws := draws }

/-! ### Invariants and runs -/

/-- The invariant of R27 holds at reset. -/
def Obligations.ScheduleInvAtReset : Prop := ScheduleInv State.reset

/-- R27: every step, from every state, keeps the invariant: a half whose flag is set holds the whole schedule of the key in
slot 0, and INV_VALID implies FWD_VALID. -/
def Obligations.EveryStepKeepsTheScheduleInv : Prop :=
  ∀ s t : State, ScheduleInv s → step s = .next t → ScheduleInv t

/-- At reset no failure is recorded, and every response so far (there is none) is legal. -/
def Obligations.FailureRecordAtReset : Prop := ErrRecordsFailures State.reset ∧ ResponsesLegal State.reset

/-- R179: a run has no failed response exactly when ERR = 0; every step keeps that, and keeps every response legal. That a
reset begins the record anew is the model's reading of R179 (log entry 3). -/
def Obligations.EveryStepKeepsTheFailureRecord : Prop :=
  ∀ s t : State, ErrRecordsFailures s → ResponsesLegal s → step s = .next t →
    ErrRecordsFailures t ∧ ResponsesLegal t ∧ (RunSucceeded t ↔ t.err = false)

/-- R22: after any run from a state with no forward schedule, FWD_VALID is set exactly when some KEXP or KFULL ran since the
last reset (R25), and slots 0 to 10 are the forward schedule of the DIN of the most recent one. That a reset among the
events keeps what the host has yet to issue is the model's choice (log entry 3). -/
def Obligations.ForwardSlotsBelongToTheLastKey : Prop :=
  ∀ s t : State, s.fwdValid = false → runSteps s.pending.length s = .next t →
    (t.fwdValid = true ↔ (lastKey none s.pending).isSome = true) ∧
    ∀ key, lastKey none s.pending = some key → ∀ i : Fin 20, i.val ≤ 10 → t.ks[i] = roundKey key i.val

/-- R33: the bits of an unbuilt slot reach no output. From two states a host cannot tell apart, every step leads to two
states a host cannot tell apart. The premise INV_VALID implies FWD_VALID is part of the invariant of R27. -/
def Obligations.UnbuiltSlotsAreNeverObserved : Prop :=
  ∀ s s' t t' : State, (s.invValid = true → s.fwdValid = true) → SameToHost s s' →
    step s = .next t → step s' = .next t' → SameToHost t t'

/-- R173: from a state with nothing built, while no KEXP or KFULL runs, ENC, DEC and KEXT answer NOT_BUILT. -/
def Obligations.NothingWorksBeforeAKey : Prop :=
  ∀ (k : Nat) (s t : State) (block : Block),
    s.fwdValid = false → s.invValid = false →
    (∀ cmd din, HostEvent.command cmd din ∈ s.pending.take k → ¬ buildsForward cmd) →
    runSteps k s = .next t →
      (∃ u, exec (.enc block) t = .next u ∧ FailedWith .notBuilt t u) ∧
      (∃ u, exec (.dec block) t = .next u ∧ FailedWith .notBuilt t u) ∧
      (∃ u, exec .kext t = .next u ∧ FailedWith .notBuilt t u)

/-- A KEXP makes a later DEC fail until the inverse half is built again (70_reset_and_hazards.md R175, 10_state.md R26), and
ENC and DEC then compute AES-128 under the new key (41_key_expansion.md R102, R103; 42_block_cipher.md R121 to R123, R128;
40_primitives.md R85). -/
def Obligations.RekeyingInvalidatesTheInverseHalf : Prop :=
  ∀ (key crypt plain : Block) (s t : State), exec (.kexp key) s = .next t →
    (∃ u, exec (.dec crypt) t = .next u ∧ FailedWith .notBuilt t u) ∧
    (∃ u, exec (.enc plain) t = .next u ∧ u.dout = refCipher key plain) ∧
    (∃ u v, exec .kext t = .next u ∧ exec (.dec crypt) u = .next v ∧ v.dout = refInvCipher key crypt)

/-- R103 (a): "KEXT when INV_VALID is already 1 rewrites slots 11–19 with the same values", so no register changes. -/
def Obligations.SecondKextChangesNoRegister : Prop :=
  ∀ s t : State, ScheduleInv s → s.invValid = true → exec .kext s = .next t →
    t = { s with responses := t.responses } ∧ Answered .ok s t

/-- R64: the end state of KFULL "equals that of `kexp k` followed by `kext`", but for the responses. -/
def Obligations.KfullEqualsKexpThenKext : Prop :=
  ∀ (key : Block) (s : State), ∃ t u v,
    exec (.kexp key) s = .next t ∧ exec .kext t = .next u ∧ exec (.kfull key) s = .next v ∧
      v = { u with responses := v.responses }

/-- R106: after KEXP or KFULL with a key, whichever of the two, KS[0] is the key and KS[10] depends on it alone; and after
KEXT or KFULL, whichever of the two and with whichever key, the slots 11 to 19 are one function of slots 1 to 9. -/
def Obligations.ScheduleIsAFunctionOfTheKey : Prop :=
  (∀ (key : Block) (i i' : Instr) (s s' t t' : State), i = .kexp key ∨ i = .kfull key → i' = .kexp key ∨ i' = .kfull key →
    exec i s = .next t → exec i' s' = .next t' → t.ks[0] = key ∧ t.ks[10] = t'.ks[10]) ∧
  (∀ (i i' : Instr) (s s' t t' : State), (i = .kext ∨ ∃ key, i = .kfull key) → (i' = .kext ∨ ∃ key, i' = .kfull key) →
    exec i s = .next t → exec i' s' = .next t' → Answered .ok s t → Answered .ok s' t' →
    (∀ n : Fin 20, 1 ≤ n.val ∧ n.val ≤ 9 → t.ks[n] = t'.ks[n]) →
    ∀ n : Fin 20, 11 ≤ n.val → t.ks[n] = t'.ks[n])

/-- R124: ENC and DEC are functions of the schedule and the block alone: under the same built schedule two of them answer
with the same DOUT, and neither writes KS or a valid flag. A second one of the same block changes no register. -/
def Obligations.EncAndDecAreRepeatable : Prop :=
  ∀ (i : Instr) (block : Block) (s s' t t' : State), i = .enc block ∨ i = .dec block →
    exec i s = .next t → exec i s' = .next t' →
      (t.ks = s.ks ∧ t.fwdValid = s.fwdValid ∧ t.invValid = s.invValid) ∧
      (¬ needsUnbuiltHalf i s → ¬ needsUnbuiltHalf i s' → s'.ks = s.ks → t'.dout = t.dout) ∧
      (s' = t → t' = { t with responses := t'.responses })

/-! ### The algorithm -/

/-- R126: `InvCipher(KS, Cipher(KS, P)) = P` over the schedule of every key, and "after `kfull K`, `enc P` followed by `dec
DOUT` returns P", from every state. -/
def Obligations.DecryptingTheCiphertextGivesThePlaintext : Prop :=
  ∀ (key plain : Block),
    (∀ ks : Vector Block 20, (∀ i : Fin 20, i.val ≤ 10 → ks[i] = roundKey key i.val) →
      (∀ j : Nat, ∀ _ : 1 ≤ j ∧ j ≤ 9, ks[10 + j] = invMixColumns ks[10 - j]) →
      invCipher ks (cipher ks plain) = plain) ∧
    ∀ s : State, ∃ t u v,
      exec (.kfull key) s = .next t ∧ exec (.enc plain) t = .next u ∧ exec (.dec u.dout) u = .next v ∧
        v.dout = plain

/-- R128: over the schedule of a key, `Cipher` is the FIPS-197 AES-128 cipher under that key. -/
def Obligations.CipherIsFipsAes128 : Prop :=
  ∀ (key plain : Block) (ks : Vector Block 20), (∀ i : Fin 20, i.val ≤ 10 → ks[i] = roundKey key i.val) →
    cipher ks plain = refCipher key plain

/-- The equivalent inverse cipher over the transformed keys is the true inverse cipher over the untransformed ones
(40_primitives.md R85, 42_block_cipher.md R129). -/
def Obligations.EquivalentInverseIsTheTrueInverse : Prop :=
  ∀ (key crypt : Block) (ks : Vector Block 20), (∀ i : Fin 20, i.val ≤ 10 → ks[i] = roundKey key i.val) →
    (∀ j : Nat, ∀ _ : 1 ≤ j ∧ j ≤ 9, ks[10 + j] = invMixColumns ks[10 - j]) →
    invCipher ks crypt = refInvCipher key crypt

/-- R92: the lane form of the key schedule equals the scalar recurrence, word by word. -/
def Obligations.LaneFormEqualsScalarRecurrence : Prop :=
  ∀ (key : Block) (i j : Nat), i ≤ 10 → j < 4 →
    wordOf (roundKey key i) j = scheduleWord key (4 * i + j)

/-- R91, in 128-bit terms: "NextRoundKey(P, T) = Bcast(T) XOR P XOR (P << 32) XOR (P << 64) XOR (P << 96)". -/
def Obligations.NextRoundKeyAsShifts : Prop :=
  ∀ (p : Block) (t : Word),
    nextRoundKey p t = ((t ++ t ++ t ++ t : Block) ^^^ p ^^^ (p <<< 32) ^^^ (p <<< 64) ^^^ (p <<< 96)) ∧
    wordOf (nextRoundKey p t) 0 = t ^^^ wordOf p 0 ∧
    wordOf (nextRoundKey p t) 1 = t ^^^ wordOf p 0 ^^^ wordOf p 1 ∧
    wordOf (nextRoundKey p t) 2 = t ^^^ wordOf p 0 ^^^ wordOf p 1 ^^^ wordOf p 2 ∧
    wordOf (nextRoundKey p t) 3 = t ^^^ wordOf p 0 ^^^ wordOf p 1 ^^^ wordOf p 2 ^^^ wordOf p 3

/-- R93: the transforms invert one another on every byte and Block, and the inverse of one forward round. -/
def Obligations.TransformsInvertOneAnother : Prop :=
  (∀ a : Byte, invSbox (sbox a) = a ∧ sbox (invSbox a) = a) ∧
  (∀ b : Block, invShiftRows (shiftRows b) = b ∧ invMixColumns (mixColumns b) = b ∧ mixColumns (invMixColumns b) = b ∧
    invSubBytes (invShiftRows b) = invShiftRows (invSubBytes b)) ∧
  (∀ b k : Block, invSubBytes (invShiftRows (invMixColumns (encRound b k ^^^ k))) = b ∧
    encRound (invSubBytes (invShiftRows (invMixColumns (b ^^^ k)))) k = b) ∧
  mixColumn 0x01010101#32 = 0x01010101#32 ∧ mixColumn 0xc6c6c6c6#32 = 0xc6c6c6c6#32 ∧
  mixColumn 0x00000000#32 = 0x00000000#32 ∧ invMixColumn 0x00000000#32 = 0x00000000#32 ∧
  mixColumn 0xffffffff#32 = 0xffffffff#32 ∧ invMixColumn 0xffffffff#32 = 0xffffffff#32 ∧
  ∃ b k : Block, decRound (encRound b k) k ≠ b

/-- R85: with a transformed key, `DecRound` is the true inverse cipher's "XOR the raw key, then un-mix" step. -/
def Obligations.DecRoundWithATransformedKey : Prop :=
  ∀ b k : Block,
    decRound b (invMixColumns k) = invMixColumns (invShiftRows (invSubBytes b) ^^^ k) ∧
    ∀ k' : Block, decRound b k' = invMixColumns (invShiftRows (invSubBytes b)) ^^^ k'

/-- R80 and R81: MixColumns and InvMixColumns multiply every column by their matrix, and InvMixColumns is linear. -/
def Obligations.ColumnMixingIsMatrixMultiplication : Prop :=
  ∀ a b : Block, mixColumns b = matrixTimes mixMatrix b ∧ invMixColumns b = matrixTimes invMixMatrix b ∧
    invMixColumns (a ^^^ b) = invMixColumns a ^^^ invMixColumns b ∧ invMixColumns 0 = 0 ∧
    mixColumn 0x455313db#32 = 0xbca14d8e#32

/-- R78 and R79: ShiftRows rotates row r of the state matrix left by r, and InvShiftRows rotates it right by r. -/
def Obligations.RowsRotateByTheirIndex : Prop :=
  ∀ (b : Block) (r c : Nat), r < 4 → c < 4 →
    matrixEntry (shiftRows b) r c = matrixEntry b r ((c + r) % 4) ∧
    matrixEntry (invShiftRows b) r ((c + r) % 4) = matrixEntry b r c ∧
    byteOf (shiftRows b) (r + 4 * c) =
      byteOf b ([0, 5, 10, 15, 4, 9, 14, 3, 8, 13, 2, 7, 12, 1, 6, 11].getD (r + 4 * c) 0) ∧
    byteOf (invShiftRows b) (r + 4 * c) =
      byteOf b ([0, 13, 10, 7, 4, 1, 14, 11, 8, 5, 2, 15, 12, 9, 6, 3].getD (r + 4 * c) 0) ∧
    invShiftRows (shiftRows b) = b

/-- R74: the S-box of the table is `Affine(ginv(a))` bit by bit, InvSbox inverts it, and it has no fixed point and no
opposite fixed point. -/
def Obligations.SboxIsAffineOfTheInverse : Prop :=
  ∀ a : Byte,
    (∀ i : Fin 8, (sbox a).getLsbD i.val =
      ((ginv a).getLsbD i.val ^^ (ginv a).getLsbD ((i.val + 4) % 8) ^^ (ginv a).getLsbD ((i.val + 5) % 8) ^^
        (ginv a).getLsbD ((i.val + 6) % 8) ^^ (ginv a).getLsbD ((i.val + 7) % 8) ^^ (0x63#8).getLsbD i.val)) ∧
    invSbox (sbox a) = a ∧ sbox (invSbox a) = a ∧ sbox a ≠ a ∧ sbox a ≠ a ^^^ 0xff#8 ∧
    sbox 0x00#8 = 0x63#8 ∧ sbox 0x01#8 = 0x7c#8 ∧ sbox 0x53#8 = 0xed#8 ∧ invSbox 0x63#8 = 0x00#8

/-- R73: `ginv(a)` is the unique multiplicative inverse of a ≠ 0x00, and ginv(0x00) = 0x00. -/
def Obligations.GinvIsTheUniqueInverse : Prop :=
  ginv 0x00#8 = 0x00#8 ∧ ∀ a y : Byte, a ≠ 0x00#8 → (gmul a y = 0x01#8 ↔ y = ginv a)

/-- R70 and R72: `gmul` is polynomial multiplication reduced modulo m(x) = 0x11B; so it is commutative, associative and
distributes over XOR. -/
def Obligations.GmulIsPolynomialMultiplication : Prop :=
  ∀ a b c : Byte, gmul a b = polyReduce (polyProduct a b) ∧ gmul a b = gmul b a ∧
    gmul a (gmul b c) = gmul (gmul a b) c ∧ gmul a (b ^^^ c) = gmul a b ^^^ gmul a c

/-- R89: the round constants start at 0x01 and each is `xtime` of the one before, and the constant of a round goes into byte
0 of its word. -/
def Obligations.RoundConstantsByXtime : Prop :=
  rconTable.length = 10 ∧ rcon 1 = 0x01#8 ∧ (∀ i : Fin 9, rcon (i.val + 2) = xtime (rcon (i.val + 1))) ∧
    ∀ i : Nat, wordByte (rconWord i) 0 = rcon i ∧ wordByte (rconWord i) 1 = 0x00#8 ∧
      wordByte (rconWord i) 2 = 0x00#8 ∧ wordByte (rconWord i) 3 = 0x00#8

/-- R87 and R88: RotWord rotates the lane value right by 8 bits, and commutes with SubWord. -/
def Obligations.RotWordIsARotateRightByEight : Prop :=
  ∀ w : Word, rotWord w = w.rotateRight 8 ∧ rotWord (subWord w) = subWord (rotWord w) ∧
    ∀ i : Nat, i < 4 → wordByte (subWord w) i = sbox (wordByte w i) ∧ wordByte (rotWord w) i = wordByte w ((i + 1) % 4)

/-- R41 and R42: byte i of a Block is on bits [8i+7 : 8i] of the port, bit 7 its most significant, and word j on bits
[32j+31 : 32j] holds bytes 4j to 4j+3, the first lowest; the state matrix is `s[r][c] = b[r+4c]`. The key of the known-answer test is the
rule's example. -/
def Obligations.PortByteOrder : Prop :=
  (∀ (f : Nat → Byte) (i k : Nat), i < 16 → k < 8 → (blockOf f).getLsbD (8 * i + k) = (f i).getLsbD k) ∧
  (∀ (b : Block) (i k : Nat), i < 16 → k < 8 → (byteOf b i).getLsbD k = b.getLsbD (8 * i + k)) ∧
  (∀ (b : Block) (j k : Nat), j < 4 → k < 4 → wordByte (wordOf b j) k = byteOf b (4 * j + k)) ∧
  (∀ (b : Block) (j k : Nat), j < 4 → k < 32 → (wordOf b j).getLsbD k = b.getLsbD (32 * j + k)) ∧
  (∀ (b : Block) (r c : Nat), r < 4 → c < 4 → matrixEntry b r c = byteOf b (r + 4 * c)) ∧
  blockOfHex ['2', 'b', '7', 'e', '1', '5', '1', '6', '2', '8', 'a', 'e', 'd', '2', 'a', '6',
    'a', 'b', 'f', '7', '1', '5', '8', '8', '0', '9', 'c', 'f', '4', 'f', '3', 'c'] =
      some 0x3c4fcf098815f7aba6d2ae2816157e2b#128

/-! ### The core as a machine that holds its key -/

/-- The core at reset is in step with the key-holding machine at reset. -/
def Obligations.KeyMachineHoldsAtReset : Prop := Holds State.reset KeyMachine.reset

/-- The core refines the machine that holds its key and computes FIPS-197 AES: on every command word and DIN the two give
the same code, DOUT and flags and stay in step, and a reset event brings both to their reset. That what the host has yet to issue stays after a reset
is the model's choice (log entry 3). -/
def Obligations.CoreRefinesTheKeyMachine : Prop :=
  ∀ (s : State) (m : KeyMachine) (rest : List HostEvent), Holds s m →
    (∀ cmd din, s.pending = .command cmd din :: rest →
      ∃ t, step s = .next t ∧ Holds t (m.command cmd din).1 ∧ Answered (m.command cmd din).2 s t ∧
        t.pending = rest) ∧
    (s.pending = .reset :: rest → ∃ t, step s = .next t ∧ Holds t KeyMachine.reset ∧ t.pending = rest)

/-! ### The assembler -/

/-- R63: each mnemonic with its operand assembles to the command word of R56 and its DIN, a slot of `rdks` in its plain
decimal form (one digit below 10, two from 10 on), `rdks` above 19 is refused, a comment is dropped, and `.word` issues a raw word with DIN 0. A Block's hex form reads back as the Block (R10). -/
def Obligations.AssemblerGivesTheCommandWords : Prop :=
  ∀ (b : Block),
    blockOfHex (hexOfBlock b) = some b ∧
    assembleLine ['n', 'o', 'p'] = .issue 0x00000000#32 0 ∧
    assembleLine (['k', 'e', 'x', 'p', ' '] ++ hexOfBlock b) = .issue 0x00000001#32 b ∧
    assembleLine ['k', 'e', 'x', 't', ';', 'x'] = .issue 0x00000002#32 0 ∧
    assembleLine (['k', 'f', 'u', 'l', 'l', ' '] ++ hexOfBlock b) = .issue 0x00000003#32 b ∧
    assembleLine (['e', 'n', 'c', ' '] ++ hexOfBlock b) = .issue 0x00000004#32 b ∧
    assembleLine (['d', 'e', 'c', ' '] ++ hexOfBlock b) = .issue 0x00000005#32 b ∧
    (∀ s : Nat, s < 10 → assembleLine ['r', 'd', 'k', 's', ' ', hexDigit s] =
      .issue (0x00000006#32 ||| (BitVec.ofNat 32 s <<< 8)) 0) ∧
    (∀ s : Nat, 10 ≤ s → s < 100 → assembleLine (['r', 'd', 'k', 's', ' '] ++ [hexDigit (s / 10), hexDigit (s % 10)]) =
      if s ≤ 19 then .issue (0x00000006#32 ||| (BitVec.ofNat 32 s <<< 8)) 0 else .refused) ∧
    ∀ b3 b2 b1 b0 : Byte,
      assembleLine (['.', 'w', 'o', 'r', 'd', ' '] ++ hexOfByte b3 ++ hexOfByte b2 ++ hexOfByte b1 ++ hexOfByte b0) =
        .issue (b3 ++ b2 ++ b1 ++ b0) 0 ∧
      assembleLine (['.', 'w', 'o', 'r', 'd', ' '] ++ hexOfByte b3 ++ hexOfByte b2 ++ hexOfByte b1 ++ hexOfByte b0 ++
        [' '] ++ hexOfBlock b) = .issue (b3 ++ b2 ++ b1 ++ b0) b
end

