-- ==== Sys2Proof/Laws/Bytes.lean ====
section
/-! SUPPORT. The byte and word views of a Block: reading back what was built, and two Blocks or words with equal parts are
equal. -/

namespace Sys2Proof.Machine

/-- A field above the lower part of a concatenation lies in its upper part. -/
theorem field_of_append_hi {v w : Nat} (x : BitVec v) (y : BitVec w) (start len : Nat) (h : w ≤ start) :
    (x ++ y).extractLsb' start len = x.extractLsb' (start - w) len :=
  BitVec.extractLsb'_append_eq_of_le h

/-- A field inside the lower part of a concatenation lies in it. -/
theorem field_of_append_lo {v w : Nat} (x : BitVec v) (y : BitVec w) (start len : Nat) (h : start + len ≤ w) :
    (x ++ y).extractLsb' start len = y.extractLsb' start len :=
  BitVec.extractLsb'_append_eq_of_add_le h

/-- The field that is the whole value. -/
theorem field_whole {w : Nat} (x : BitVec w) : x.extractLsb' 0 w = x := BitVec.extractLsb'_eq_self

/-- A byte of a Block built from its bytes. -/
@[simp] theorem byteOf_blockOf (f : Nat → Byte) (i : Nat) (h : i < 16) : byteOf (blockOf f) i = f i := by
  change BitVec.extractLsb' (n := 8 + 8 + 8 + 8 + 8 + 8 + 8 + 8 + 8 + 8 + 8 + 8 + 8 + 8 + 8 + 8) (8 * i) 8
    (f 15 ++ f 14 ++ f 13 ++ f 12 ++ f 11 ++ f 10 ++ f 9 ++ f 8 ++ f 7 ++ f 6 ++ f 5 ++ f 4 ++ f 3 ++ f 2 ++ f 1 ++ f 0) = _
  interval_cases i <;>
    repeat (first
      | exact field_whole _
      | rw [field_of_append_hi _ _ _ _ (by decide)]
      | rw [field_of_append_lo _ _ _ _ (by decide)])

/-- The words of a Block built from its words. -/
@[simp] theorem wordOf_blockOfWords (w0 w1 w2 w3 : Word) :
    wordOf (blockOfWords w0 w1 w2 w3) 0 = w0 ∧ wordOf (blockOfWords w0 w1 w2 w3) 1 = w1 ∧
      wordOf (blockOfWords w0 w1 w2 w3) 2 = w2 ∧ wordOf (blockOfWords w0 w1 w2 w3) 3 = w3 := by
  have view (j : Nat) : wordOf (blockOfWords w0 w1 w2 w3) j =
      BitVec.extractLsb' (n := 32 + 32 + 32 + 32) (32 * j) 32 (w3 ++ w2 ++ w1 ++ w0) := rfl
  simp only [view]
  refine ⟨?_, ?_, ?_, ?_⟩ <;>
    repeat (first
      | exact field_whole _
      | rw [field_of_append_hi _ _ _ _ (by decide)]
      | rw [field_of_append_lo _ _ _ _ (by decide)])

/-- The bytes of a word built from its bytes. -/
@[simp] theorem wordByte_wordOfBytes (a0 a1 a2 a3 : Byte) :
    wordByte (wordOfBytes a0 a1 a2 a3) 0 = a0 ∧ wordByte (wordOfBytes a0 a1 a2 a3) 1 = a1 ∧
      wordByte (wordOfBytes a0 a1 a2 a3) 2 = a2 ∧ wordByte (wordOfBytes a0 a1 a2 a3) 3 = a3 := by
  have view (j : Nat) : wordByte (wordOfBytes a0 a1 a2 a3) j =
      BitVec.extractLsb' (n := 8 + 8 + 8 + 8) (8 * j) 8 (a3 ++ a2 ++ a1 ++ a0) := rfl
  simp only [view]
  refine ⟨?_, ?_, ?_, ?_⟩ <;>
    repeat (first
      | exact field_whole _
      | rw [field_of_append_hi _ _ _ _ (by decide)]
      | rw [field_of_append_lo _ _ _ _ (by decide)])

/-- Two values with the same `n`-bit fields are equal. -/
theorem fields_ext {n m : Nat} (hn : 0 < n) {a b : BitVec (n * m)}
    (h : ∀ i, i < m → a.extractLsb' (n * i) n = b.extractLsb' (n * i) n) : a = b := by
  apply BitVec.eq_of_getLsbD_eq
  intro k hk
  have e := congrArg (fun x => x.getLsbD (k % n)) (h (k / n) (Nat.div_lt_of_lt_mul hk))
  simpa [Nat.mod_lt k hn, Nat.div_add_mod k n] using e

/-- Two Blocks with the same 16 bytes are equal. -/
theorem block_ext {a b : Block} (h : ∀ i, i < 16 → byteOf a i = byteOf b i) : a = b :=
  fields_ext (n := 8) (m := 16) (by decide) h

/-- Two Blocks with the same four words are equal. -/
theorem block_ext_words {a b : Block} (h0 : wordOf a 0 = wordOf b 0) (h1 : wordOf a 1 = wordOf b 1)
    (h2 : wordOf a 2 = wordOf b 2) (h3 : wordOf a 3 = wordOf b 3) : a = b :=
  fields_ext (n := 32) (m := 4) (by decide) fun i hi => by interval_cases i <;> assumption

/-- Two words with the same four bytes are equal. -/
theorem word_ext {a b : Word} (h0 : wordByte a 0 = wordByte b 0) (h1 : wordByte a 1 = wordByte b 1)
    (h2 : wordByte a 2 = wordByte b 2) (h3 : wordByte a 3 = wordByte b 3) : a = b :=
  fields_ext (n := 8) (m := 4) (by decide) fun i hi => by interval_cases i <;> assumption

/-- A byte of an XOR. -/
@[simp] theorem byteOf_xor (a b : Block) (i : Nat) : byteOf (a ^^^ b) i = byteOf a i ^^^ byteOf b i :=
  BitVec.extractLsb'_xor

/-- A word of an XOR. -/
@[simp] theorem wordOf_xor (a b : Block) (j : Nat) : wordOf (a ^^^ b) j = wordOf a j ^^^ wordOf b j :=
  BitVec.extractLsb'_xor

/-- A byte of an XOR of words. -/
@[simp] theorem wordByte_xor (a b : Word) (i : Nat) : wordByte (a ^^^ b) i = wordByte a i ^^^ wordByte b i :=
  BitVec.extractLsb'_xor

/-- A round key of the forward schedule. -/
@[simp] theorem expandForward_getElem (key : Block) (i : Nat) (h : i < 11) :
    (expandForward key)[i] = roundKey key i := by
  simp [expandForward]

/-- A transformed key of the inverse half. -/
@[simp] theorem extendInverse_getElem (rk : Vector Block 11) (m : Nat) (h : m < 9) :
    (extendInverse rk)[m] = invMixColumns rk[10 - (m + 1)] := by
  simp [extendInverse]

end Sys2Proof.Machine
end

