-- ==== Sys2Proof/Laws/Decode.lean ====
section
/-! SUPPORT. The fields of a command word and the decoder, as arithmetic on the word's value. -/

namespace Sys2Proof

/-- The fields of a command word, as numbers (30_encoding.md R55). -/
theorem fields_toNat (cmd : CmdWord) :
    (opField cmd).toNat = cmd.toNat % 16 ∧ (rsv0Field cmd).toNat = cmd.toNat / 16 % 16 ∧
      (slotField cmd).toNat = cmd.toNat / 256 % 32 ∧ (rsv1Field cmd).toNat = cmd.toNat / 8192 := by
  have := cmd.isLt
  refine ⟨?_, ?_, ?_, ?_⟩ <;>
    simp [opField, rsv0Field, slotField, rsv1Field, BitVec.extractLsb'_toNat, Nat.shiftRight_eq_div_pow]
  omega

/-- What every word decodes to, by its value as a number: the one spec lemma of `decode` (30_encoding.md R62). -/
theorem decode_byNumber (cmd : CmdWord) (din : Block) :
    decode cmd din =
      if cmd.toNat / 8192 ≠ 0 ∨ cmd.toNat / 16 % 16 ≠ 0 then .illegal .reservedBits
      else if cmd.toNat = 0 then .command .nop
      else if cmd.toNat = 1 then .command (.kexp din)
      else if cmd.toNat = 2 then .command .kext
      else if cmd.toNat = 3 then .command (.kfull din)
      else if cmd.toNat = 4 then .command (.enc din)
      else if cmd.toNat = 5 then .command (.dec din)
      else if cmd.toNat % 16 = 6 then .command (.rdks (cmd.toNat / 256 % 32))
      else if cmd.toNat % 16 < 6 then .illegal .slotNotZero
      else .illegal .reservedOp := by
  obtain ⟨h1, h2, h3, h4⟩ := fields_toNat cmd
  have z1 : rsv1Field cmd = 0 ↔ cmd.toNat / 8192 = 0 := by rw [← h4, ← BitVec.toNat_inj]; rfl
  have z0 : rsv0Field cmd = 0 ↔ cmd.toNat / 16 % 16 = 0 := by rw [← h2, ← BitVec.toNat_inj]; rfl
  have zs : slotField cmd = 0 ↔ cmd.toNat / 256 % 32 = 0 := by rw [← h3, ← BitVec.toNat_inj]; rfl
  unfold decode withoutSlot
  simp only [ne_eq, z1, z0, h1, h3, zs]
  clear h1 h2 h3 h4 z1 z0 zs
  generalize cmd.toNat = v
  by_cases bad : ¬ v / 8192 = 0 ∨ ¬ v / 16 % 16 = 0
  · rw [if_pos bad, if_pos bad]
  · -- the reserved fields are zero, so the word is its SLOT and OP fields and nothing else (R55)
    rw [if_neg bad, if_neg bad]
    have word : v = 256 * (v / 256 % 32) + v % 16 := by omega
    have op_lt : v % 16 < 16 := Nat.mod_lt _ (by decide)
    generalize v / 256 % 32 = slot at word ⊢
    generalize v % 16 = op at word op_lt ⊢
    by_cases noSlot : slot = 0
    · subst noSlot word
      interval_cases op <;> rfl
    · -- a word with a SLOT is none of the six words 0x00000000 to 0x00000005
      have large : 5 < v := by omega
      have other : ∀ k, k ≤ 5 → v ≠ k := fun k hk => by omega
      clear word large
      interval_cases op <;> simp [noSlot, other]

end Sys2Proof
end

