-- ==== Sys2Proof/Laws/State.lean ====
section
/-! SUPPORT. One lemma per field of `State` per update of it: what each named operation leaves in each field. -/

namespace Sys2Proof.Machine

variable (s : State)

@[simp] theorem writeForward_fwdValid (rk : Vector Block 11) :
    (writeForward s rk).fwdValid = s.fwdValid := by simp only [writeForward]
@[simp] theorem writeForward_invValid (rk : Vector Block 11) :
    (writeForward s rk).invValid = s.invValid := by simp only [writeForward]
@[simp] theorem writeForward_err (rk : Vector Block 11) :
    (writeForward s rk).err = s.err := by simp only [writeForward]
@[simp] theorem writeForward_dout (rk : Vector Block 11) :
    (writeForward s rk).dout = s.dout := by simp only [writeForward]
@[simp] theorem writeForward_pending (rk : Vector Block 11) :
    (writeForward s rk).pending = s.pending := by simp only [writeForward]
@[simp] theorem writeForward_responses (rk : Vector Block 11) :
    (writeForward s rk).responses = s.responses := by simp only [writeForward]
@[simp] theorem writeForward_draws (rk : Vector Block 11) :
    (writeForward s rk).draws = s.draws := by simp only [writeForward]

@[simp] theorem writeInverse_fwdValid (dk : Vector Block 9) :
    (writeInverse s dk).fwdValid = s.fwdValid := by simp only [writeInverse]
@[simp] theorem writeInverse_invValid (dk : Vector Block 9) :
    (writeInverse s dk).invValid = s.invValid := by simp only [writeInverse]
@[simp] theorem writeInverse_err (dk : Vector Block 9) :
    (writeInverse s dk).err = s.err := by simp only [writeInverse]
@[simp] theorem writeInverse_dout (dk : Vector Block 9) :
    (writeInverse s dk).dout = s.dout := by simp only [writeInverse]
@[simp] theorem writeInverse_pending (dk : Vector Block 9) :
    (writeInverse s dk).pending = s.pending := by simp only [writeInverse]
@[simp] theorem writeInverse_responses (dk : Vector Block 9) :
    (writeInverse s dk).responses = s.responses := by simp only [writeInverse]
@[simp] theorem writeInverse_draws (dk : Vector Block 9) :
    (writeInverse s dk).draws = s.draws := by simp only [writeInverse]

@[simp] theorem writeDout_ks (v : Block) :
    (writeDout s v).ks = s.ks := rfl
@[simp] theorem writeDout_fwdValid (v : Block) :
    (writeDout s v).fwdValid = s.fwdValid := rfl
@[simp] theorem writeDout_invValid (v : Block) :
    (writeDout s v).invValid = s.invValid := rfl
@[simp] theorem writeDout_err (v : Block) :
    (writeDout s v).err = s.err := rfl
@[simp] theorem writeDout_dout (v : Block) :
    (writeDout s v).dout = v := rfl
@[simp] theorem writeDout_pending (v : Block) :
    (writeDout s v).pending = s.pending := rfl
@[simp] theorem writeDout_responses (v : Block) :
    (writeDout s v).responses = s.responses := rfl
@[simp] theorem writeDout_draws (v : Block) :
    (writeDout s v).draws = s.draws := rfl

@[simp] theorem markForwardBuilt_ks :
    (markForwardBuilt s).ks = s.ks := rfl
@[simp] theorem markForwardBuilt_fwdValid :
    (markForwardBuilt s).fwdValid = true := rfl
@[simp] theorem markForwardBuilt_invValid :
    (markForwardBuilt s).invValid = false := rfl
@[simp] theorem markForwardBuilt_err :
    (markForwardBuilt s).err = s.err := rfl
@[simp] theorem markForwardBuilt_dout :
    (markForwardBuilt s).dout = s.dout := rfl
@[simp] theorem markForwardBuilt_pending :
    (markForwardBuilt s).pending = s.pending := rfl
@[simp] theorem markForwardBuilt_responses :
    (markForwardBuilt s).responses = s.responses := rfl
@[simp] theorem markForwardBuilt_draws :
    (markForwardBuilt s).draws = s.draws := rfl

@[simp] theorem markInverseBuilt_ks :
    (markInverseBuilt s).ks = s.ks := rfl
@[simp] theorem markInverseBuilt_fwdValid :
    (markInverseBuilt s).fwdValid = s.fwdValid := rfl
@[simp] theorem markInverseBuilt_invValid :
    (markInverseBuilt s).invValid = true := rfl
@[simp] theorem markInverseBuilt_err :
    (markInverseBuilt s).err = s.err := rfl
@[simp] theorem markInverseBuilt_dout :
    (markInverseBuilt s).dout = s.dout := rfl
@[simp] theorem markInverseBuilt_pending :
    (markInverseBuilt s).pending = s.pending := rfl
@[simp] theorem markInverseBuilt_responses :
    (markInverseBuilt s).responses = s.responses := rfl
@[simp] theorem markInverseBuilt_draws :
    (markInverseBuilt s).draws = s.draws := rfl

@[simp] theorem markBothBuilt_ks :
    (markBothBuilt s).ks = s.ks := rfl
@[simp] theorem markBothBuilt_fwdValid :
    (markBothBuilt s).fwdValid = true := rfl
@[simp] theorem markBothBuilt_invValid :
    (markBothBuilt s).invValid = true := rfl
@[simp] theorem markBothBuilt_err :
    (markBothBuilt s).err = s.err := rfl
@[simp] theorem markBothBuilt_dout :
    (markBothBuilt s).dout = s.dout := rfl
@[simp] theorem markBothBuilt_pending :
    (markBothBuilt s).pending = s.pending := rfl
@[simp] theorem markBothBuilt_responses :
    (markBothBuilt s).responses = s.responses := rfl
@[simp] theorem markBothBuilt_draws :
    (markBothBuilt s).draws = s.draws := rfl

@[simp] theorem markError_ks :
    (markError s).ks = s.ks := rfl
@[simp] theorem markError_fwdValid :
    (markError s).fwdValid = s.fwdValid := rfl
@[simp] theorem markError_invValid :
    (markError s).invValid = s.invValid := rfl
@[simp] theorem markError_err :
    (markError s).err = true := rfl
@[simp] theorem markError_dout :
    (markError s).dout = s.dout := rfl
@[simp] theorem markError_pending :
    (markError s).pending = s.pending := rfl
@[simp] theorem markError_responses :
    (markError s).responses = s.responses := rfl
@[simp] theorem markError_draws :
    (markError s).draws = s.draws := rfl

@[simp] theorem clearFlags_ks :
    (clearFlags s).ks = s.ks := rfl
@[simp] theorem clearFlags_fwdValid :
    (clearFlags s).fwdValid = false := rfl
@[simp] theorem clearFlags_invValid :
    (clearFlags s).invValid = false := rfl
@[simp] theorem clearFlags_err :
    (clearFlags s).err = false := rfl
@[simp] theorem clearFlags_dout :
    (clearFlags s).dout = s.dout := rfl
@[simp] theorem clearFlags_pending :
    (clearFlags s).pending = s.pending := rfl
@[simp] theorem clearFlags_responses :
    (clearFlags s).responses = s.responses := rfl
@[simp] theorem clearFlags_draws :
    (clearFlags s).draws = s.draws := rfl

@[simp] theorem respond_ks (code : Code) :
    (respond code s).ks = s.ks := rfl
@[simp] theorem respond_fwdValid (code : Code) :
    (respond code s).fwdValid = s.fwdValid := rfl
@[simp] theorem respond_invValid (code : Code) :
    (respond code s).invValid = s.invValid := rfl
@[simp] theorem respond_err (code : Code) :
    (respond code s).err = s.err := rfl
@[simp] theorem respond_dout (code : Code) :
    (respond code s).dout = s.dout := rfl
@[simp] theorem respond_pending (code : Code) :
    (respond code s).pending = s.pending := rfl
@[simp] theorem respond_responses (code : Code) :
    (respond code s).responses = s.responses ++ [⟨statusOf code s, s.dout⟩] := rfl
@[simp] theorem respond_draws (code : Code) :
    (respond code s).draws = s.draws := rfl

@[simp] theorem raiseError_ks (code : Code) :
    (raiseError code s).ks = s.ks := rfl
@[simp] theorem raiseError_fwdValid (code : Code) :
    (raiseError code s).fwdValid = s.fwdValid := rfl
@[simp] theorem raiseError_invValid (code : Code) :
    (raiseError code s).invValid = s.invValid := rfl
@[simp] theorem raiseError_err (code : Code) :
    (raiseError code s).err = true := rfl
@[simp] theorem raiseError_dout (code : Code) :
    (raiseError code s).dout = s.dout := rfl
@[simp] theorem raiseError_pending (code : Code) :
    (raiseError code s).pending = s.pending := rfl
@[simp] theorem raiseError_responses (code : Code) :
    (raiseError code s).responses = s.responses ++ [⟨statusOf code (markError s), s.dout⟩] := rfl
@[simp] theorem raiseError_draws (code : Code) :
    (raiseError code s).draws = s.draws := rfl

@[simp] theorem rejectCommand_ks :
    (rejectCommand s).ks = s.ks := rfl
@[simp] theorem rejectCommand_fwdValid :
    (rejectCommand s).fwdValid = s.fwdValid := rfl
@[simp] theorem rejectCommand_invValid :
    (rejectCommand s).invValid = s.invValid := rfl
@[simp] theorem rejectCommand_err :
    (rejectCommand s).err = true := rfl
@[simp] theorem rejectCommand_dout :
    (rejectCommand s).dout = s.dout := rfl
@[simp] theorem rejectCommand_pending :
    (rejectCommand s).pending = s.pending := rfl
@[simp] theorem rejectCommand_responses :
    (rejectCommand s).responses = s.responses ++ [⟨statusOf .illegal (markError s), s.dout⟩] := rfl
@[simp] theorem rejectCommand_draws :
    (rejectCommand s).draws = s.draws := rfl

@[simp] theorem applyReset_ks :
    (applyReset s).ks = Config.resetSlots s.draws s.ks := rfl
@[simp] theorem applyReset_fwdValid :
    (applyReset s).fwdValid = false := rfl
@[simp] theorem applyReset_invValid :
    (applyReset s).invValid = false := rfl
@[simp] theorem applyReset_err :
    (applyReset s).err = false := rfl
@[simp] theorem applyReset_dout :
    (applyReset s).dout = 0 := rfl
@[simp] theorem applyReset_pending :
    (applyReset s).pending = s.pending := rfl
@[simp] theorem applyReset_responses :
    (applyReset s).responses = [] := rfl
@[simp] theorem applyReset_draws :
    (applyReset s).draws = s.draws + 1 := rfl

@[simp] theorem issueFirst_ks (cmd : CmdWord) (din : Block) :
    (issueFirst s cmd din).ks = s.ks := rfl
@[simp] theorem issueFirst_fwdValid (cmd : CmdWord) (din : Block) :
    (issueFirst s cmd din).fwdValid = s.fwdValid := rfl
@[simp] theorem issueFirst_invValid (cmd : CmdWord) (din : Block) :
    (issueFirst s cmd din).invValid = s.invValid := rfl
@[simp] theorem issueFirst_err (cmd : CmdWord) (din : Block) :
    (issueFirst s cmd din).err = s.err := rfl
@[simp] theorem issueFirst_dout (cmd : CmdWord) (din : Block) :
    (issueFirst s cmd din).dout = s.dout := rfl
@[simp] theorem issueFirst_pending (cmd : CmdWord) (din : Block) :
    (issueFirst s cmd din).pending = .command cmd din :: s.pending := rfl
@[simp] theorem issueFirst_responses (cmd : CmdWord) (din : Block) :
    (issueFirst s cmd din).responses = s.responses := rfl
@[simp] theorem issueFirst_draws (cmd : CmdWord) (din : Block) :
    (issueFirst s cmd din).draws = s.draws := rfl

/-- A slot after the forward half is written. -/
@[simp] theorem writeForward_ks (rk : Vector Block 11) (n : Nat) (h : n < 20) :
    (writeForward s rk).ks[n] = if h' : n < 11 then rk[n] else s.ks[n] := by
  simp [writeForward]

/-- A slot after the inverse half is written. -/
@[simp] theorem writeInverse_ks (dk : Vector Block 9) (n : Nat) (h : n < 20) :
    (writeInverse s dk).ks[n] = if h' : 11 ≤ n then dk[n - 11] else s.ks[n] := by
  simp [writeInverse]

/-- The forward half, slot by slot. -/
@[simp] theorem forwardHalf_getElem (ks : Vector Block 20) (n : Nat) (h : n < 11) :
    (forwardHalf ks)[n] = ks[n] := by
  simp [forwardHalf]

end Sys2Proof.Machine
end

