-- ==== Sys2Proof/Laws/Ops.lean ====
section
/-! SUPPORT. One lemma per shared operation: all it does, for later proofs to cite instead of unfolding it. -/

namespace Sys2Proof.Machine

/-- STATUS reads as R30 lays it out. -/
theorem statusOf_reads (code : Code) (t : State) : StatusReads (statusOf code t) code t := by
  have table : ∀ f i e : Bool,
      (statusWord code f i e).extractLsb' 0 4 = codeBits code ∧ (statusWord code f i e).extractLsb' 4 4 = 0#4 ∧
        (statusWord code f i e).getLsbD 8 = f ∧ (statusWord code f i e).getLsbD 9 = i ∧
        (statusWord code f i e).getLsbD 10 = e ∧ (statusWord code f i e).extractLsb' 11 21 = 0#21 := by
    cases code <;> decide
  obtain ⟨h1, h2, h3, h4, h5, h6⟩ := table t.fwdValid t.invValid t.err
  exact ⟨h1, h2, h3, h4, h5, h6⟩

/-- STATUS depends on the flags alone. -/
theorem StatusReads.of_flags {w : StatusWord} {code : Code} {s t : State} (h : StatusReads w code s)
    (hf : t.fwdValid = s.fwdValid) (hi : t.invValid = s.invValid) (he : t.err = s.err) : StatusReads w code t :=
  ⟨h.code, h.reservedLow, h.fwd.trans hf.symm, h.inv.trans hi.symm, h.err.trans he.symm, h.reservedHigh⟩

/-- The codes are told apart by their bits. -/
theorem codeBits_injective {c d : Code} (h : codeBits c = codeBits d) : c = d := by
  cases c <;> cases d <;> first | rfl | exact absurd h (by decide)

/-- A command has one answer. -/
theorem Answered.code_unique {c d : Code} {s t : State} (hc : Answered c s t) (hd : Answered d s t) : c = d := by
  obtain ⟨r, hr, h, -⟩ := hc
  obtain ⟨r', hr', h', -⟩ := hd
  have e : r = r' := by simpa using hr.symm.trans hr'
  exact codeBits_injective (h.code.symm.trans (e ▸ h'.code))

/-- Ending a command answers it. -/
theorem respond_answered {code : Code} {s u : State} (h : u.responses = s.responses) : Answered code s (respond code u) :=
  ⟨⟨statusOf code u, u.dout⟩, by simp [h], (statusOf_reads code u).of_flags rfl rfl rfl, rfl⟩

/-- Failing changes only ERR (R155). -/
theorem raiseError_failed (code : Code) (s : State) : FailedWith code s (raiseError code s) :=
  ⟨rfl, rfl, rfl, rfl, rfl, respond_answered rfl, rfl, rfl⟩

/-- Taking an event off the port: it is the first one issued, and it alone leaves. -/
theorem takeEvent_eq_some {s s' : State} {e : HostEvent} :
    takeEvent s = some (e, s') ↔ ∃ rest, s.pending = e :: rest ∧ s' = { s with pending := rest } := by
  unfold takeEvent
  cases h : s.pending with
  | nil => simp
  | cons e' rest =>
    constructor
    · intro h'
      simp only [Option.some.injEq, Prod.mk.injEq] at h'
      exact ⟨rest, by rw [h'.1], h'.2.symm⟩
    · rintro ⟨rest', hr, rfl⟩
      obtain ⟨rfl, rfl⟩ := List.cons.inj hr
      rfl

/-- There is no event to take exactly when the host has issued nothing. -/
theorem takeEvent_eq_none {s : State} : takeEvent s = none ↔ s.pending = [] := by
  unfold takeEvent
  cases s.pending <;> simp

/-- A table word is placed where the next event is taken. -/
theorem takeEvent_withFetchWord (s : State) (nbits w : Nat) :
    takeEvent (s.withFetchWord nbits w) =
      some (.command (tableCommand nbits w).1 (tableCommand nbits w).2, s) := rfl

end Sys2Proof.Machine
end

