-- ==== Sys2Proof/Laws/PerInstr.lean ====
section
/-! SUPPORT. What holds of every command as syntax: the word it encodes to has zeros in its reserved fields (spec/30_encoding.md
R60) and its own OP (R56). -/

namespace Sys2Proof.Laws.CleanWord

/-- The OP of a command (30_encoding.md R56). -/
def opOf : Instr → BitVec 4
  | .nop => 0x0#4
  | .kexp _ => 0x1#4
  | .kext => 0x2#4
  | .kfull _ => 0x3#4
  | .enc _ => 0x4#4
  | .dec _ => 0x5#4
  | .rdks _ => 0x6#4

/-- The command's word has zeros in RSV0 and RSV1, and its OP field is the command's. -/
def Statement (i : Instr) : Prop :=
  rsv0Field (encodeWord i) = 0 ∧ rsv1Field (encodeWord i) = 0 ∧ opField (encodeWord i) = opOf i

/-- The fields of a packed word, for every OP and SLOT. -/
theorem packWord_fields : ∀ (op : BitVec 4) (slot : BitVec 5),
    rsv0Field (packWord op slot) = 0 ∧ rsv1Field (packWord op slot) = 0 ∧ opField (packWord op slot) = op := by
  decide +kernel

theorem nop : Statement .nop := packWord_fields _ _
theorem kexp (key : Block) : Statement (.kexp key) := packWord_fields _ _
theorem kext : Statement .kext := packWord_fields _ _
theorem kfull (key : Block) : Statement (.kfull key) := packWord_fields _ _
theorem enc (plain : Block) : Statement (.enc plain) := packWord_fields _ _
theorem dec (crypt : Block) : Statement (.dec crypt) := packWord_fields _ _
theorem rdks (slot : Nat) : Statement (.rdks slot) := packWord_fields _ _

end Sys2Proof.Laws.CleanWord
end

