-- ==== Sys2Proof/Laws/Step.lean ====
section
/-! SUPPORT. What a command and a step can do, said once: later proofs cite `exec_cases` and `step_cases` instead of unfolding
`exec` and `step`. -/

namespace Sys2Proof.Machine

/-- What a command that ends with OK leaves before it answers: one line per command. -/
def OkEffect (i : Instr) (s u : State) : Prop :=
  match i with
  | .nop => u = s
  | .kexp key => u = markForwardBuilt (writeForward s (expandForward key))
  | .kext => s.fwdValid = true ∧ u = markInverseBuilt (writeInverse s (extendInverse (forwardHalf s.ks)))
  | .kfull key => u = markBothBuilt (writeInverse (writeForward s (expandForward key)) (extendInverse (expandForward key)))
  | .enc p => s.fwdValid = true ∧ u = writeDout s (cipher s.ks p)
  | .dec c => s.invValid = true ∧ u = writeDout s (invCipher s.ks c)
  | .rdks n => ∃ h : n < 20, slotBuilt s n = true ∧ u = writeDout s s.ks[n]

/-- A next state is one state. -/
theorem next_inj {a b : State} (h : Host.Outcome.next a = (Host.Outcome.next b : Host.Outcome State Fault Refusal)) : b = a := by
  injection h with h
  exact h.symm

/-- All a command can do: end with OK and its effect, or fail with NOT_BUILT for want of a half, or, for RDKS, fail with
SLOT_RANGE. -/
theorem exec_cases {i : Instr} {s t : State} (h : exec i s = .next t) :
    (∃ u, t = respond .ok u ∧ OkEffect i s u) ∨
    (t = raiseError .notBuilt s ∧ needsUnbuiltHalf i s) ∨
    (t = raiseError .slotRange s ∧ ∃ n, 20 ≤ n ∧ i = .rdks n) := by
  cases i with
  | nop => exact .inl ⟨_, next_inj h, rfl⟩
  | kexp k => exact .inl ⟨_, next_inj h, rfl⟩
  | kfull k => exact .inl ⟨_, next_inj h, rfl⟩
  | kext =>
    simp only [exec, execKext] at h
    split at h
    · exact .inl ⟨_, next_inj h, ‹_›, rfl⟩
    · exact .inr (.inl ⟨next_inj h, by simp_all [needsUnbuiltHalf]⟩)
  | enc p =>
    simp only [exec, execEnc] at h
    split at h
    · exact .inl ⟨_, next_inj h, ‹_›, rfl⟩
    · exact .inr (.inl ⟨next_inj h, by simp_all [needsUnbuiltHalf]⟩)
  | dec p =>
    simp only [exec, execDec] at h
    split at h
    · exact .inl ⟨_, next_inj h, ‹_›, rfl⟩
    · exact .inr (.inl ⟨next_inj h, by simp_all [needsUnbuiltHalf]⟩)
  | rdks n =>
    simp only [exec, execRdks] at h
    split at h
    · split at h
      · exact .inl ⟨_, next_inj h, ‹_›, ‹_›, rfl⟩
      · refine .inr (.inl ⟨next_inj h, ?_⟩)
        rename_i h1 h2
        simp only [slotBuilt] at h2
        simp only [needsUnbuiltHalf]
        split at h2
        · left; simp_all
        · right; refine ⟨by omega, by omega, by simpa using h2⟩
    · exact .inr (.inr ⟨next_inj h, n, by omega, rfl⟩)

/-- All a step can do: nothing, a reset, a decoded command, or the answer to an ILLEGAL word. -/
theorem step_cases {s t : State} (h : step s = .next t) :
    (s.pending = [] ∧ t = s) ∨
    (∃ rest, s.pending = .reset :: rest ∧ t = applyReset { s with pending := rest }) ∨
    (∃ cmd din rest, s.pending = .command cmd din :: rest ∧
      ((∃ i, decode cmd din = .command i ∧ exec i { s with pending := rest } = .next t) ∨
       (∃ why, decode cmd din = .illegal why ∧ t = rejectCommand { s with pending := rest }))) := by
  unfold step takeEvent at h
  rcases hp : s.pending with _ | ⟨e, rest⟩ <;> rw [hp] at h
  · exact .inl ⟨rfl, next_inj h⟩
  · cases e with
    | reset => exact .inr (.inl ⟨rest, rfl, next_inj h⟩)
    | command cmd din =>
      refine .inr (.inr ⟨cmd, din, rest, rfl, ?_⟩)
      dsimp only at h
      split at h
      · exact .inl ⟨_, ‹_›, h⟩
      · exact .inr ⟨_, ‹_›, next_inj h⟩

/-- A malformed word of any OP fails (30_encoding.md R60). -/
theorem malformed_words_fail (op : Nat) : MalformedWordsFail op := by
  intro s cmd din rest hp hop hbad
  obtain ⟨why, hd⟩ : ∃ why, decode cmd din = .illegal why := by
    rw [decode_byNumber]
    (repeat' split) <;> first | exact ⟨_, rfl⟩ | omega
  refine ⟨_, ?_, raiseError_failed .illegal _⟩
  simp only [step, takeEvent, hp, hd]
  rfl

end Sys2Proof.Machine
end

