-- ==== Sys2Proof/Tests/Slice0.lean ====
section
/-! SUPPORT. The model's own tests. Expected values are the spec's (spec/95_test_vectors.md, its tables V0 to V14), written
as port values (spec/20_memory.md R41: byte 0 lowest); and a witness for the hypotheses of each statement that has any. -/

-- One theorem at a time: each kernel evaluation would otherwise take a thread, and its stack, of its own.
set_option Elab.async false

namespace Sys2Proof.Machine

/-- The next state of an outcome. -/
def testNext (o : Host.Outcome State Fault Refusal) : Option State :=
  match o with
  | .next t => some t
  | .fault _ => none
  | .refused _ => none

/-- STATUS of the last response. -/
def testStatus (t : State) : Option StatusWord := t.responses.getLast?.map fun r => r.status

/-- The key of V1. -/
def testKey : Block := 0x3c4fcf098815f7aba6d2ae2816157e2b#128

/-- The plaintext of V1. -/
def testPlain : Block := 0x340737e0a29831318d305a88a8f64332#128

/-- The ciphertext of V1. -/
def testCrypt : Block := 0x320b6a19978511dcfb09dc021d842539#128

/-- Start state F of V14: the forward half of the V1 key is built. -/
def testForward : State := markForwardBuilt (writeForward State.reset (expandForward testKey))

/-- Start state B of V14: both halves of the V1 key are built. -/
def testBoth : State :=
  markBothBuilt (writeInverse (writeForward State.reset (expandForward testKey)) (extendInverse (expandForward testKey)))

/-- One step on one command: STATUS and DOUT. -/
def testStep (s : State) (cmd : CmdWord) (din : Block) : Option (Option StatusWord × Block) :=
  (testNext (step { s with pending := [.command cmd din] })).map fun t => (testStatus t, t.dout)

/-! ### Well-formed terms -/

theorem test_wf_refuses_slot_32 : (Instr.rdks 32).wf = false := by decide
theorem test_wf_accepts_slot_31 : (Instr.rdks 31).wf = true := by decide
theorem test_assembler_refuses_slot_20 : (Instr.rdks 20).assemblable = false := by decide

/-! ### Encoding (30_encoding.md R55, R56, V13) -/

theorem test_decode_nop : decode 0b00000000000000000000000000000000#32 5 = .command .nop := by decide
theorem test_decode_kexp : decode 0b00000000000000000000000000000001#32 5 = .command (.kexp 5) := by decide
theorem test_decode_kext : decode 0b00000000000000000000000000000010#32 5 = .command .kext := by decide
theorem test_decode_kfull : decode 0b00000000000000000000000000000011#32 5 = .command (.kfull 5) := by decide
theorem test_decode_enc : decode 0b00000000000000000000000000000100#32 5 = .command (.enc 5) := by decide
theorem test_decode_dec : decode 0b00000000000000000000000000000101#32 5 = .command (.dec 5) := by decide
theorem test_decode_rdks : decode 0b00000000000000000001001100000110#32 5 = .command (.rdks 19) := by decide
theorem test_decode_illegal : decode 0x00000007#32 0 = .illegal .reservedOp ∧ decode 0x0000000F#32 0 = .illegal .reservedOp ∧
    decode 0x00000014#32 0 = .illegal .reservedBits ∧ decode 0x00002006#32 0 = .illegal .reservedBits ∧
    decode 0x80000004#32 0 = .illegal .reservedBits ∧ decode 0x00000104#32 0 = .illegal .slotNotZero ∧
    decode 0x00000100#32 0 = .illegal .slotNotZero := by decide
theorem test_decode_table_word : decodeTableWord 32 0x00001306 = some (.rdks 19) ∧ decodeTableWord 32 7 = none := by decide

/-! ### The transforms (V0) -/

theorem test_xtime : xtime 0x57 = 0xae ∧ xtime 0x80 = 0x1b ∧ xtime 0x00 = 0x00 := by decide +kernel
theorem test_gmul : gmul 0x57 0x83 = 0xc1 ∧ gmul 0x57 0x13 = 0xfe ∧ gmul 0x00 0xff = 0x00 := by decide +kernel
theorem test_ginv : ginv 0x00 = 0x00 ∧ ginv 0x01 = 0x01 ∧ ginv 0x53 = 0xca := by decide +kernel
theorem test_sbox : sbox 0x00 = 0x63 ∧ sbox 0x53 = 0xed ∧ sbox 0xff = 0x16 ∧ invSbox 0x63 = 0x00 ∧ invSbox 0x00 = 0x52 := by decide +kernel
theorem test_subBytes : subBytes 0x0f0e0d0c0b0a09080706050403020100#128 = 0x76abd7fe2b670130c56f6bf27b777c63#128 := by decide +kernel
theorem test_invSubBytes : invSubBytes 0x0f0e0d0c0b0a09080706050403020100#128 = 0xfbd7f3819ea340bf38a53630d56a0952#128 := by decide +kernel
theorem test_shiftRows : shiftRows 0x0f0e0d0c0b0a09080706050403020100#128 = 0x0b06010c07020d08030e09040f0a0500#128 := by decide +kernel
theorem test_invShiftRows : invShiftRows 0x0f0e0d0c0b0a09080706050403020100#128 = 0x0306090c0f0205080b0e0104070a0d00#128 := by decide +kernel
theorem test_mixColumns : mixColumns 0x0f0e0d0c0b0a09080706050403020100#128 = 0x090c0b0e0d080f0a0104030605000702#128 := by decide +kernel
theorem test_invMixColumns : invMixColumns 0x0f0e0d0c0b0a09080706050403020100#128 = 0x0104030605000702090c0b0e0d080f0a#128 := by decide +kernel
theorem test_mixColumn : mixColumn 0x455313db#32 = 0xbca14d8e#32 ∧ mixColumn 0x5c220af2#32 = 0x9d58dc9f#32 := by decide +kernel
theorem test_encRound : encRound 0x0f0e0d0c0b0a09080706050403020100#128 0 = 0x5c219c27615dd9b051336d2c455c6a6a#128 := by decide +kernel
theorem test_encLastRound : encLastRound 0x0f0e0d0c0b0a09080706050403020100#128 0 = 0x2b6f7cfec577d7307bab01f276676b63#128 := by decide +kernel
theorem test_decRound : decRound 0x0f0e0d0c0b0a09080706050403020100#128 0 = 0x519bbdc6b2f24f176e29192e1c96a313#128 := by decide +kernel
theorem test_decLastRound : decLastRound 0x0f0e0d0c0b0a09080706050403020100#128 0 = 0xd5a54081fb6a36bf9ed7093038a3f352#128 := by decide +kernel
theorem test_rotWord_subWord : rotWord 0x3c4fcf09#32 = 0x093c4fcf#32 ∧ subWord 0x093c4fcf#32 = 0x01eb848a#32 := by decide +kernel
theorem test_keyGenWord : keyGenWord testKey 1 = 0x01eb848b#32 ∧ keyGenWord 0 1 = 0x63636362#32 := by decide +kernel

/-! ### The schedule of the V1 key (V2) and the refuting vectors (V11, V12) -/

theorem test_schedule_slots : testBoth.ks[1] = 0x05766c2a3939a323b12c548817fefaa0#128 ∧ testBoth.ks[10] = 0xa60c63b6c80c3fe18925eec9a8f914d0#128 ∧
    testBoth.ks[11] = 0xb4fb4c66908839b0feea1913635a7b0c#128 ∧ testBoth.ks[19] = 0x627d614bbfbd3ebc05d462f2a708372b#128 := by decide +kernel
/-- V11: the untransformed slots 9 to 1 in place of 11 to 19 give this wrong value (42_block_cipher.md R125). -/
theorem test_untransformed_slots_are_wrong :
    decLastRound ([9, 8, 7, 6, 5, 4, 3, 2, 1].foldl (fun s i => decRound s (roundKey testKey i))
      (testCrypt ^^^ roundKey testKey 10)) testKey = 0xd7febbac566b2356cc140e69f2d69590#128 := by decide +kernel
/-- V12: the literal step order, XOR before the un-mix, gives this wrong value (90_conflicts.md C2). -/
theorem test_literal_order_is_wrong :
    decLastRound ([9, 8, 7, 6, 5, 4, 3, 2, 1].foldl
      (fun s i => invMixColumns (invShiftRows (invSubBytes s) ^^^ invMixColumns (roundKey testKey i)))
      (testCrypt ^^^ roundKey testKey 10)) testKey = 0x97de6e1d23133d4167cfd51b52a48e85#128 := by decide +kernel
/-- V10a: the plaintext equal to the key. -/
theorem test_cipher_of_the_key : cipher testBoth.ks testKey = 0x7a4b93dfe0e96d7ba317d56fd391357f#128 := by decide +kernel

/-! ### Single commands (V14) -/

theorem test_nop_at_reset : testStep State.reset 0x00000000#32 0 = some (some 0x00000000#32, 0) := by decide +kernel
theorem test_kexp_at_reset : testStep State.reset 0x00000001#32 testKey = some (some 0x00000100#32, 0) := by decide +kernel
theorem test_kexp_clears_inverse : testStep testBoth 0x00000001#32 0x0f0e0d0c0b0a09080706050403020100#128 = some (some 0x00000100#32, 0) := by decide +kernel
theorem test_kext_at_reset : testStep State.reset 0x00000002#32 0 = some (some 0x00000402#32, 0) := by decide +kernel
theorem test_kext_after_kexp : testStep testForward 0x00000002#32 0 = some (some 0x00000300#32, 0) := by decide +kernel
theorem test_kfull_at_reset : testStep State.reset 0x00000003#32 testKey = some (some 0x00000300#32, 0) := by decide +kernel
theorem test_kfull_slot_19 : (testNext (step { State.reset with pending := [.command 0x00000003#32 0x0f0e0d0c0b0a09080706050403020100#128] })).map (fun t => t.ks[19]) =
    some 0xfdd75986fcd35a80f9d35d82f0df568c#128 := by decide +kernel
theorem test_enc_at_reset : testStep State.reset 0x00000004#32 testPlain = some (some 0x00000402#32, 0) := by decide +kernel
theorem test_enc_known_answer : testStep testForward 0x00000004#32 testPlain = some (some 0x00000100#32, testCrypt) := by decide +kernel
theorem test_dec_without_inverse : testStep testForward 0x00000005#32 testCrypt = some (some 0x00000502#32, 0) := by decide +kernel
theorem test_dec_known_answer : testStep testBoth 0x00000005#32 testCrypt = some (some 0x00000300#32, testPlain) := by decide +kernel
theorem test_rdks_slot_19 : testStep testBoth 0x00001306#32 0 = some (some 0x00000300#32, 0x627d614bbfbd3ebc05d462f2a708372b#128) := by decide +kernel
theorem test_rdks_slot_25_at_reset : testStep State.reset 0x00001906#32 0 = some (some 0x00000403#32, 0) := by decide +kernel
theorem test_illegal_op : testStep testBoth 0x00000007#32 0 = some (some 0x00000701#32, 0) := by decide +kernel
theorem test_illegal_slot : testStep testBoth 0x00000104#32 testPlain = some (some 0x00000701#32, 0) := by decide +kernel
theorem test_fetch_word_is_next : testNext (step (State.reset.withFetchWord 32 0x00001906)) =
    testNext (exec (.rdks 25) State.reset) := by decide +kernel
theorem test_assemble_line : assembleLine ['r', 'd', 'k', 's', ' ', '1', '9', ' ', ';', 'k'] = .issue 0x00001306#32 0 := by decide
theorem test_assemble_program : assembleProgram [['n', 'o', 'p'], [], ['k', 'e', 'x', 't']] =
    some [.command 0x00000000#32 0, .command 0x00000002#32 0] := by decide

/-! ### Witnesses: the hypotheses of each statement can be met together -/

theorem witness_DecodeOfEncodeGivesTheCommand : (Instr.rdks 0).wf = true ∧ (Instr.rdks 31).wf = true := by decide
theorem witness_OpcodeTableRowsDecideDecoding :
    decode 0x00001F06#32 0 = .command (.rdks 31) ∧ decode 0x00000007#32 0 = .illegal .reservedOp := by decide
theorem witness_IllegalWordsByField :
    ({ State.reset with pending := [.command 7 0] } : State).pending = .command 7 0 :: [] ∧
      testStep State.reset 0x00000007#32 0 = some (some 0x00000401#32, 0) := by decide +kernel
theorem witness_LegalWordsAreExactlyThese : (20 ≤ 20 ∧ 20 < 32) ∧ (20 ≤ 31 ∧ 31 < 32) := by decide
theorem witness_DecryptingTheCiphertextGivesThePlaintext :
    (∀ i : Fin 20, i.val ≤ 10 → testBoth.ks[i] = roundKey testKey i.val) ∧ invCipher testBoth.ks testCrypt = testPlain := by
  decide +kernel
theorem witness_DinIsIgnoredWhereUnused : 0x00001F06#32 &&& 0xFFFFE0FF#32 = 0x00000006#32 := by decide
theorem witness_StepRunsTheDecodedCommand :
    ({ State.reset with pending := [.command 4 7, .reset] } : State).pending = .command 4 7 :: [.reset] ∧
      decode 4 7 = .command (.enc 7) := by decide
theorem witness_StepAnswersIllegalWords :
    ({ testBoth with pending := [.command 0x00000104#32 7] } : State).pending = .command 0x00000104#32 7 :: [] ∧
      decode 0x00000104#32 7 = .illegal .slotNotZero := ⟨rfl, by decide⟩
theorem witness_IdleStepLeavesEverything : State.reset.pending = [] := rfl
theorem witness_ResetClearsFlagsAndDout :
    ({ testBoth with pending := [.reset, .command 0 0] } : State).pending = .reset :: [.command 0 0] := rfl
theorem witness_CommandsAreAnsweredInOrder :
    ({ testBoth with pending := [.command 7 0, .command 0 0] } : State).pending = .command 7 0 :: [.command 0 0] := rfl
theorem witness_IssuedCommandsAllFinish :
    HostEvent.reset ∉ ({ testBoth with pending := [.command 7 0, .command 0 0] } : State).pending := by decide
theorem witness_MalformedWordsFail :
    ({ State.reset with pending := [.command 0x00000104#32 0] } : State).pending = .command 0x00000104#32 0 :: [] ∧
      (0x00000104#32).toNat % 16 = 4 ∧ (0x00000104#32).toNat / 2 ^ 8 % 2 ^ 5 ≠ 0 ∧ (0x00002006#32).toNat % 16 = 6 ∧
      (0x00002006#32).toNat / 2 ^ 13 ≠ 0 := by decide
theorem witness_KextBuildsTheInverseHalf : testForward.fwdValid = true ∧ State.reset.fwdValid = false := ⟨rfl, rfl⟩
theorem witness_EncWritesTheCiphertext : testForward.fwdValid = true ∧ State.reset.fwdValid = false := ⟨rfl, rfl⟩
theorem witness_DecWritesThePlaintext : testBoth.invValid = true ∧ testForward.invValid = false := ⟨rfl, rfl⟩
theorem witness_RdksReadsTheSlot_built :
    (∀ slot : Fin 20, slot.val = 0 ∨ slot.val = 10 → (slot.val ≤ 10 → testForward.fwdValid = true) ∧
      (11 ≤ slot.val → testForward.invValid = true)) ∧
    (∀ slot : Fin 20, slot.val = 11 ∨ slot.val = 19 → (slot.val ≤ 10 → testBoth.fwdValid = true) ∧
      (11 ≤ slot.val → testBoth.invValid = true)) := by decide
theorem witness_RdksReadsTheSlot_failing :
    (10 ≤ 10 ∧ State.reset.fwdValid = false) ∧ (11 ≤ 11 ∧ 19 ≤ 19 ∧ testForward.invValid = false) ∧ (20 ≤ 20 ∧ 20 < 32) ∧
      (20 ≤ 31 ∧ 31 < 32) := by decide
theorem witness_CommandsReadAndWriteOnlyTheirSlots :
    ∃ s s' t t' : State, exec .kext s = .next t ∧ exec .kext s' = .next t' ∧ s' = { s with ks := s'.ks } ∧ s' ≠ s ∧
      (∀ slot : Fin 20, readsSlot .kext slot.val → s'.ks[slot] = s.ks[slot]) ∧
      t.responses = s.responses ++ [⟨statusWord .ok true true false, 0⟩] := by
  refine ⟨testForward, { testForward with ks := testForward.ks.set 0 1 }, _, _, rfl, rfl, rfl, by decide +kernel, ?_, rfl⟩
  rintro slot ⟨h, -⟩
  have hne : ¬ (0 : Nat) = slot.val := by omega
  simp [hne]
theorem witness_ValidFlagsChangeOnlyByTheirCommands :
    ∃ t, step { testForward with pending := [.command 2 0] } = .next t ∧ t.invValid = true := ⟨_, rfl, rfl⟩
theorem witness_DoutIsWrittenOnlyBySuccessfulReads :
    ∃ t, exec (.rdks 0) testForward = .next t ∧ t.dout ≠ testForward.dout :=
  ⟨_, rfl, by decide +kernel⟩
theorem witness_FailingCommandsChangeOnlyErr :
    ∃ t r, step { testForward with pending := [.command 5 0] } = .next t ∧ t.responses = testForward.responses ++ [r] ∧
      r.failed := ⟨_, _, rfl, rfl, by unfold Response.failed; decide +kernel⟩
theorem witness_NotBuiltExactlyForAnUnbuiltHalf :
    ∃ t, exec (.rdks 11) testForward = .next t ∧ needsUnbuiltHalf (.rdks 11) testForward ∧
      ¬ needsUnbuiltHalf (.rdks 10) testForward :=
  ⟨_, rfl, .inr ⟨by decide, by decide, rfl⟩, by simp [needsUnbuiltHalf, testForward, markForwardBuilt]⟩
theorem witness_OneCodeByPriority :
    testStep State.reset 0x00002106#32 0 = some (some 0x00000401#32, 0) ∧
      testStep State.reset 0x00001406#32 0 = some (some 0x00000403#32, 0) ∧
      testStep State.reset 0x00001306#32 0 = some (some 0x00000402#32, 0) ∧
      testStep State.reset 0x00000000#32 0 = some (some 0x00000000#32, 0) := by decide +kernel
theorem witness_StatusReportsFlagsAfterTheCommand :
    ∃ t, step { testBoth with pending := [.command 1 0] } = .next t ∧ t.fwdValid = true ∧ t.invValid = false :=
  ⟨_, rfl, rfl, rfl⟩
theorem witness_ErrIsStickyAndOtherwiseIdle_run :
    ∃ t, (markError { State.reset with pending := [.command 0 0, .reset] }).err = true ∧
      HostEvent.reset ∉ ([.command 0 0, .reset] : List HostEvent).take 1 ∧
      runSteps 1 (markError { State.reset with pending := [.command 0 0, .reset] }) = .next t := ⟨_, rfl, by decide, rfl⟩
theorem witness_ErrIsStickyAndOtherwiseIdle_command :
    ∃ t, exec (.enc 0) { testForward with err := false } = .next t ∧ t.fwdValid = true := ⟨_, rfl, rfl⟩
theorem witness_CommandsDependOnlyOnTheRegisters : ∃ t, exec (.dec 0) testBoth = .next t ∧ t.err = false := ⟨_, rfl, rfl⟩
/-- The inverse half of start state B (R23). -/
theorem test_inverse_half : ∀ j : Nat, ∀ _ : 1 ≤ j ∧ j ≤ 9, testBoth.ks[10 + j] = invMixColumns testBoth.ks[10 - j] := by
  have key : ∀ m : Fin 9, testBoth.ks[10 + (m.val + 1)] = invMixColumns testBoth.ks[10 - (m.val + 1)] := by decide +kernel
  intro j hj
  obtain ⟨m, rfl⟩ : ∃ m, j = m + 1 := ⟨j - 1, by omega⟩
  exact key ⟨m, by omega⟩
theorem witness_EveryStepKeepsTheScheduleInv :
    ScheduleInv { testBoth with pending := [.command 4 0] } ∧
      ∃ t, step { testBoth with pending := [.command 4 0] } = .next t := 
  ⟨⟨fun _ => rfl, fun _ => by decide +kernel, fun _ => test_inverse_half⟩, _, rfl⟩
theorem witness_EveryStepKeepsTheFailureRecord :
    ErrRecordsFailures { State.reset with pending := [.command 4 0] } ∧
      ResponsesLegal { State.reset with pending := [.command 4 0] } ∧
      ∃ t, step { State.reset with pending := [.command 4 0] } = .next t ∧ t.err = true :=
  ⟨by simp [ErrRecordsFailures, State.reset], by simp [ResponsesLegal, State.reset], _, rfl, rfl⟩
theorem witness_ForwardSlotsBelongToTheLastKey :
    ∃ t, State.reset.fwdValid = false ∧
      runSteps 2 { State.reset with pending := [.command 1 5, .command 3 6] } = .next t ∧
      lastKey none [.command 1 5, .command 3 6] = some 6 := ⟨_, rfl, rfl, by decide⟩
theorem witness_UnbuiltSlotsAreNeverObserved :
    ∃ s s' t t' : State, (s.invValid = true → s.fwdValid = true) ∧ SameToHost s s' ∧ s ≠ s' ∧ step s = .next t ∧
      step s' = .next t' ∧ t.dout ≠ s.dout := by
  refine ⟨{ testForward with pending := [.command 4 0] },
    { testForward with pending := [.command 4 0], ks := testForward.ks.set 19 1 }, _, _, fun _ => rfl,
    ⟨rfl, rfl, rfl, rfl, rfl, rfl, rfl, fun _ i hi => ?_, fun h => nomatch h⟩, by decide +kernel, rfl, rfl, by decide +kernel⟩
  have hne : ¬ (19 : Nat) = i.val := by omega
  simp [hne]
theorem witness_NothingWorksBeforeAKey :
    ∃ t, State.reset.fwdValid = false ∧ State.reset.invValid = false ∧
      (∀ cmd din, HostEvent.command cmd din ∈ ([.command 0 0] : List HostEvent).take 1 → ¬ buildsForward cmd) ∧
      runSteps 1 { State.reset with pending := [.command 0 0] } = .next t :=
  ⟨_, rfl, rfl, by simp [buildsForward], rfl⟩
theorem witness_RekeyingInvalidatesTheInverseHalf : ∃ t, exec (.kexp 5) testBoth = .next t ∧ testBoth.invValid = true :=
  ⟨_, rfl, rfl⟩
theorem witness_SecondKextChangesNoRegister :
    ScheduleInv testBoth ∧ testBoth.invValid = true ∧ ∃ t, exec .kext testBoth = .next t := 
  ⟨⟨fun _ => rfl, fun _ => by decide +kernel, fun _ => test_inverse_half⟩, rfl, _, rfl⟩
theorem witness_ScheduleIsAFunctionOfTheKey_key :
    ∃ t t' : State, exec (.kexp 5) State.reset = .next t ∧ exec (.kfull 5) testForward = .next t' := ⟨_, _, rfl, rfl⟩
theorem witness_ScheduleIsAFunctionOfTheKey_inverse :
    ∃ t t' : State, exec .kext testForward = .next t ∧ exec (.kfull testKey) State.reset = .next t' ∧
      Answered .ok testForward t ∧ Answered .ok State.reset t' ∧
      ∀ n : Fin 20, 1 ≤ n.val ∧ n.val ≤ 9 → t.ks[n] = t'.ks[n] :=
  ⟨_, _, rfl, rfl, respond_answered rfl, respond_answered rfl, by decide +kernel⟩
theorem witness_EncAndDecAreRepeatable :
    ∃ t u, exec (.dec 0) testBoth = .next t ∧ exec (.dec 0) t = .next u ∧ ¬ needsUnbuiltHalf (.dec 0) testBoth ∧
      ¬ needsUnbuiltHalf (.dec 0) t ∧ t.ks = testBoth.ks :=
  ⟨_, _, rfl, rfl, (fun h => nomatch h), (fun h => nomatch h), rfl⟩
theorem witness_CipherIsFipsAes128 : ∀ i : Fin 20, i.val ≤ 10 → testForward.ks[i] = roundKey testKey i.val := by
  decide +kernel
theorem witness_EquivalentInverseIsTheTrueInverse :
    (∀ i : Fin 20, i.val ≤ 10 → testBoth.ks[i] = roundKey testKey i.val) ∧
      (∀ j : Nat, ∀ _ : 1 ≤ j ∧ j ≤ 9, testBoth.ks[10 + j] = invMixColumns testBoth.ks[10 - j]) := 
  ⟨by decide +kernel, test_inverse_half⟩
theorem witness_LaneFormEqualsScalarRecurrence :
    wordOf (roundKey testKey 10) 3 = scheduleWord testKey 43 ∧ wordOf (roundKey testKey 0) 0 = scheduleWord testKey 0 := by
  decide +kernel
theorem witness_RowsRotateByTheirIndex : (3 < 4 ∧ 3 < 4) ∧ (0 < 4 ∧ 0 < 4) := by decide
theorem witness_GinvIsTheUniqueInverse : (0x01#8 ≠ 0x00#8 ∧ gmul 0x01#8 0x01#8 = 0x01#8) ∧
    (0xff#8 ≠ 0x00#8 ∧ gmul 0xff#8 (ginv 0xff#8) = 0x01#8) := by decide +kernel
theorem witness_CoreRefinesTheKeyMachine :
    Holds { State.reset with pending := [.command 3 5] } KeyMachine.reset ∧
      Holds { State.reset with pending := [.reset] } KeyMachine.reset := by
  constructor <;> exact ⟨rfl, rfl, fun h => h, rfl, rfl, fun _ h => (nomatch h), fun _ h => (nomatch h)⟩
theorem witness_CoreRefinesTheKeyMachine_built :
    Holds testBoth { KeyMachine.reset with key := some testKey, invBuilt := true } := by
  refine ⟨rfl, rfl, fun _ => rfl, rfl, rfl, fun key h => ?_, fun key h _ => ?_⟩ <;> cases h <;> decide +kernel
theorem witness_AssemblerGivesTheCommandWords :
    (0 < 10 ∧ 9 < 10) ∧ (10 ≤ 10 ∧ 19 < 100 ∧ 20 < 100) ∧
      assembleLine ['r', 'd', 'k', 's', ' ', '9'] = .issue 0x00000906#32 0 ∧ assembleLine ['r', 'd', 'k', 's', ' ', '2', '0'] = .refused := by decide

end Sys2Proof.Machine
end

section
/-! SUPPORT. The transforms of the core are those of the reference (spec/40_primitives.md R74 to R92): the S-box is its
formula, the row and column transforms are the ones of the state matrix, and the lane form of the key schedule is the scalar
recurrence. -/

namespace Sys2Proof.Machine

/-! ### The field -/

/-- The contribution of bit `k` of `b` to `gmul a b`. -/
def gmulTerm (a b : Byte) (k : Nat) : Byte := if b.getLsbD k then xtimeIter k a else 0x00#8

/-- `gmul` is the sum of the contributions of the bits of its second operand (R72). -/
theorem gmul_eq_sum_gmulTerm (a b : Byte) :
    gmul a b = ((List.range 8).map (gmulTerm a b)).foldl (· ^^^ ·) 0x00#8 := by
  have add (r : Byte) (k : Nat) : (if b.getLsbD k then r ^^^ xtimeIter k a else r) = r ^^^ gmulTerm a b k := by
    unfold gmulTerm
    split <;> simp
  simp only [gmul, add, List.foldl_map]
  rfl

/-- A bit's contribution is linear in the operand. -/
theorem gmulTerm_xor (a b c : Byte) (k : Nat) : gmulTerm a (b ^^^ c) k = gmulTerm a b k ^^^ gmulTerm a c k := by
  cases hb : b.getLsbD k <;> cases hc : c.getLsbD k <;> simp [gmulTerm, hb, hc]

/-- Summing up commutes with adding two families. -/
theorem foldl_xor_map_xor (f g : Nat → Byte) (ks : List Nat) (x y : Byte) :
    (ks.map fun k => f k ^^^ g k).foldl (· ^^^ ·) (x ^^^ y) =
      (ks.map f).foldl (· ^^^ ·) x ^^^ (ks.map g).foldl (· ^^^ ·) y := by
  induction ks generalizing x y with
  | nil => rfl
  | cons k ks ih =>
    have swap : x ^^^ y ^^^ (f k ^^^ g k) = x ^^^ f k ^^^ (y ^^^ g k) := by ac_rfl
    simp only [List.map_cons, List.foldl_cons, swap, ih]

/-- `gmul` distributes over XOR (R70). -/
theorem gmul_xor (a b c : Byte) : gmul a (b ^^^ c) = gmul a b ^^^ gmul a c := by
  have terms : gmulTerm a (b ^^^ c) = fun k => gmulTerm a b k ^^^ gmulTerm a c k := funext (gmulTerm_xor a b c)
  simpa [gmul_eq_sum_gmulTerm, terms] using
    foldl_xor_map_xor (gmulTerm a b) (gmulTerm a c) (List.range 8) 0x00#8 0x00#8

/-- 0x01 is the unit of the field. -/
@[simp] theorem gmul_one_left (b : Byte) : gmul 0x01#8 b = b := by
  revert b
  decide +kernel

/-- The table of R75 is the formula of R74. -/
theorem sbox_eq_sboxFormula : ∀ a : Byte, sbox a = sboxFormula a := by decide +kernel

/-! ### Bytes of words and of matrices -/

/-- Byte `k` of word `j` is byte `4 * j + k` of the Block (20_memory.md R42). -/
theorem wordByte_wordOf (b : Block) (j k : Nat) (hk : k < 4) : wordByte (wordOf b j) k = byteOf b (4 * j + k) := by
  apply BitVec.eq_of_getLsbD_eq
  intro n hn
  have inWord : 8 * k + n < 32 := by omega
  simp [wordByte, wordOf, byteOf, hn, inWord, show 32 * j + (8 * k + n) = 8 * (4 * j + k) + n by omega]

/-- A byte of a Block built from a matrix (00_scope.md R11). -/
theorem byteOf_blockOfMatrix (m : Nat → Nat → Byte) (i : Nat) (h : i < 16) :
    byteOf (blockOfMatrix m) i = m (i % 4) (i / 4) := by
  simp [blockOfMatrix, h]

/-- A bytewise transform, read off the state matrix. -/
theorem blockOfMatrix_map (f : Byte → Byte) (b : Block) :
    blockOfMatrix (fun r c => f (matrixEntry b r c)) = blockOf fun i => f (byteOf b i) := by
  apply block_ext
  intro i hi
  rw [byteOf_blockOfMatrix _ i hi, byteOf_blockOf _ i hi, matrixEntry, Nat.mod_add_div]

/-- SubBytes is the reference's (R74, R77). -/
theorem refSubBytes_eq (b : Block) : refSubBytes b = subBytes b := by
  simp only [refSubBytes, subBytes, sbox_eq_sboxFormula, blockOfMatrix_map]

/-- InvSubBytes is the reference's (R77). -/
theorem refInvSubBytes_eq (b : Block) : refInvSubBytes b = invSubBytes b := blockOfMatrix_map invSbox b

/-- ShiftRows is the rotation of the rows (R78). -/
theorem refShiftRows_eq (b : Block) : refShiftRows b = shiftRows b := by
  apply block_ext
  intro i hi
  rw [refShiftRows, shiftRows, permuteBytes, byteOf_blockOfMatrix _ i hi, byteOf_blockOf _ i hi]
  interval_cases i <;> rfl

/-- InvShiftRows is the rotation of the rows back (R79). -/
theorem refInvShiftRows_eq (b : Block) : refInvShiftRows b = invShiftRows b := by
  apply block_ext
  intro i hi
  rw [refInvShiftRows, invShiftRows, permuteBytes, byteOf_blockOfMatrix _ i hi, byteOf_blockOf _ i hi]
  interval_cases i <;> rfl

/-- InvSubBytes works bytewise and InvShiftRows moves bytes, so they commute (R93). -/
theorem invSubBytes_invShiftRows (b : Block) : invSubBytes (invShiftRows b) = invShiftRows (invSubBytes b) := by
  apply block_ext
  intro i hi
  simp only [invSubBytes, invShiftRows, permuteBytes, byteOf_blockOf _ i hi]
  interval_cases i <;> simp

/-! ### Columns -/

/-- A word of a column transform. -/
theorem wordOf_mapColumns (f : Word → Word) (b : Block) (j : Nat) (hj : j < 4) :
    wordOf (mapColumns f b) j = f (wordOf b j) := by
  obtain ⟨w0, w1, w2, w3⟩ := wordOf_blockOfWords (f (wordOf b 0)) (f (wordOf b 1)) (f (wordOf b 2)) (f (wordOf b 3))
  interval_cases j <;> assumption

/-- A column transform is the matrix product of the state when it is so on every column (R80, R81). -/
theorem mapColumns_eq_matrixTimes {f : Word → Word} {rows : List (List Byte)}
    (h : ∀ (w : Word) (r : Nat), r < 4 → wordByte (f w) r =
      gmul ((rows.getD r []).getD 0 0) (wordByte w 0) ^^^ gmul ((rows.getD r []).getD 1 0) (wordByte w 1) ^^^
        gmul ((rows.getD r []).getD 2 0) (wordByte w 2) ^^^ gmul ((rows.getD r []).getD 3 0) (wordByte w 3))
    (b : Block) : mapColumns f b = matrixTimes rows b := by
  apply block_ext
  intro i hi
  have row : i % 4 < 4 := Nat.mod_lt _ (by decide)
  have entry (k : Nat) (hk : k < 4) : wordByte (wordOf b (i / 4)) k = matrixEntry b k (i / 4) := by
    rw [wordByte_wordOf b _ k hk, matrixEntry, Nat.add_comm]
  calc byteOf (mapColumns f b) i
      = wordByte (wordOf (mapColumns f b) (i / 4)) (i % 4) := by
        rw [wordByte_wordOf _ _ _ row, Nat.div_add_mod]
    _ = wordByte (f (wordOf b (i / 4))) (i % 4) := by rw [wordOf_mapColumns f b _ (by omega)]
    _ = byteOf (matrixTimes rows b) i := by
        rw [h _ _ row, matrixTimes, byteOf_blockOfMatrix _ i hi, entry 0 (by decide), entry 1 (by decide),
          entry 2 (by decide), entry 3 (by decide)]

/-- MixColumns is the product with the matrix of R80. -/
theorem mixColumns_eq_matrixTimes (b : Block) : mixColumns b = matrixTimes mixMatrix b := by
  refine mapColumns_eq_matrixTimes (fun w r hr => ?_) b
  interval_cases r <;> simp [mixColumn, mixMatrix]

/-- InvMixColumns is the product with the matrix of R81. -/
theorem invMixColumns_eq_matrixTimes (b : Block) : invMixColumns b = matrixTimes invMixMatrix b := by
  refine mapColumns_eq_matrixTimes (fun w r hr => ?_) b
  interval_cases r <;> simp [invMixColumn, invMixMatrix]

/-- InvMixColumns is linear on a column. -/
theorem invMixColumn_xor (v w : Word) : invMixColumn (v ^^^ w) = invMixColumn v ^^^ invMixColumn w := by
  apply word_ext <;> simp only [invMixColumn, wordByte_wordOfBytes, wordByte_xor, gmul_xor] <;> ac_rfl

/-- InvMixColumns is linear (R81). -/
theorem invMixColumns_xor (a b : Block) : invMixColumns (a ^^^ b) = invMixColumns a ^^^ invMixColumns b := by
  have column (j : Nat) (hj : j < 4) :
      wordOf (invMixColumns (a ^^^ b)) j = wordOf (invMixColumns a ^^^ invMixColumns b) j := by
    simp only [invMixColumns, wordOf_xor, wordOf_mapColumns _ _ j hj, invMixColumn_xor]
  exact block_ext_words (column 0 (by decide)) (column 1 (by decide)) (column 2 (by decide)) (column 3 (by decide))

/-! ### The key schedule -/

/-- RotWord moves bytes and SubWord works bytewise, so they commute (R87, R88). -/
theorem rotWord_subWord (w : Word) : rotWord (subWord w) = subWord (rotWord w) := by
  apply word_ext <;> simp [rotWord, subWord]

/-- Each word of the next round key is the one before it, and the first the generated word, with the old word added
(R91). -/
theorem wordOf_nextRoundKey (p : Block) (t : Word) :
    wordOf (nextRoundKey p t) 0 = t ^^^ wordOf p 0 ∧
      wordOf (nextRoundKey p t) 1 = wordOf (nextRoundKey p t) 0 ^^^ wordOf p 1 ∧
      wordOf (nextRoundKey p t) 2 = wordOf (nextRoundKey p t) 1 ^^^ wordOf p 2 ∧
      wordOf (nextRoundKey p t) 3 = wordOf (nextRoundKey p t) 2 ^^^ wordOf p 3 := by
  simp [nextRoundKey]

/-- The scalar recurrence away from the multiples of four (R92). -/
theorem scheduleWord_add_four (key : Block) (n : Nat) (h : (n + 4) % 4 ≠ 0) :
    scheduleWord key (n + 4) = scheduleWord key (n + 3) ^^^ scheduleWord key n := by
  rw [scheduleWord, if_neg h, BitVec.xor_comm]

/-- The scalar recurrence at a multiple of four, where the generated word of R90 comes in. -/
theorem scheduleWord_four_mul_succ (key p : Block) (i : Nat) (h : wordOf p 3 = scheduleWord key (4 * i + 3)) :
    scheduleWord key (4 * i + 4) = keyGenWord p (i + 1) ^^^ scheduleWord key (4 * i) := by
  rw [scheduleWord, if_pos (by omega), show (4 * i + 4) / 4 = i + 1 by omega, keyGenWord, rotWord_subWord, h,
    BitVec.xor_comm]

/-- The words of a round key are those of the scalar recurrence (R92). -/
theorem wordOf_roundKey (key : Block) (i : Nat) :
    wordOf (roundKey key i) 0 = scheduleWord key (4 * i) ∧ wordOf (roundKey key i) 1 = scheduleWord key (4 * i + 1) ∧
      wordOf (roundKey key i) 2 = scheduleWord key (4 * i + 2) ∧
      wordOf (roundKey key i) 3 = scheduleWord key (4 * i + 3) := by
  induction i with
  | zero => exact ⟨rfl, rfl, rfl, rfl⟩
  | succ i ih =>
    obtain ⟨w0, w1, w2, w3⟩ := ih
    obtain ⟨n0, n1, n2, n3⟩ := wordOf_nextRoundKey (roundKey key i) (keyGenWord (roundKey key i) (i + 1))
    rw [w0, ← scheduleWord_four_mul_succ key _ i w3] at n0
    rw [n0, w1, ← scheduleWord_add_four key (4 * i + 1) (by omega)] at n1
    rw [n1, w2, ← scheduleWord_add_four key (4 * i + 2) (by omega)] at n2
    rw [n2, w3, ← scheduleWord_add_four key (4 * i + 3) (by omega)] at n3
    exact ⟨n0, n1, n2, n3⟩

/-- The lane form of the schedule is the reference's (R92). -/
theorem roundKey_eq_refRoundKey (key : Block) (i : Nat) : roundKey key i = refRoundKey key i := by
  obtain ⟨w0, w1, w2, w3⟩ := wordOf_roundKey key i
  obtain ⟨r0, r1, r2, r3⟩ := wordOf_blockOfWords (scheduleWord key (4 * i)) (scheduleWord key (4 * i + 1))
    (scheduleWord key (4 * i + 2)) (scheduleWord key (4 * i + 3))
  exact block_ext_words (w0.trans r0.symm) (w1.trans r1.symm) (w2.trans r2.symm) (w3.trans r3.symm)

/-! ### The ciphers -/

/-- The full forward round is the reference's (R83). -/
theorem encRound_eq_reference (s k : Block) :
    encRound s k = matrixTimes mixMatrix (refShiftRows (refSubBytes s)) ^^^ k := by
  rw [refSubBytes_eq, refShiftRows_eq, ← mixColumns_eq_matrixTimes, encRound, addRoundKey]

/-- The final forward round is the reference's (R84). -/
theorem encLastRound_eq_reference (s k : Block) : encLastRound s k = refShiftRows (refSubBytes s) ^^^ k := by
  rw [refSubBytes_eq, refShiftRows_eq, encLastRound, addRoundKey]

/-- With a transformed key, the full inverse round is the true inverse cipher's round with the raw key (R85): un-mixing is
linear, and the byte substitution commutes with the row rotation. -/
theorem decRound_eq_reference (s k : Block) :
    decRound s (invMixColumns k) = matrixTimes invMixMatrix (refInvSubBytes (refInvShiftRows s) ^^^ k) := by
  rw [refInvShiftRows_eq, refInvSubBytes_eq, ← invMixColumns_eq_matrixTimes, invMixColumns_xor,
    invSubBytes_invShiftRows, decRound, addRoundKey]

/-- The final inverse round is the reference's (R86). -/
theorem decLastRound_eq_reference (s k : Block) :
    decLastRound s k = refInvSubBytes (refInvShiftRows s) ^^^ k := by
  rw [refInvShiftRows_eq, refInvSubBytes_eq, invSubBytes_invShiftRows, decLastRound, addRoundKey]

/-- A transformed key of the reference is InvMixColumns of the round key (41_key_expansion.md R101). -/
theorem refInverseSlot_eq (key : Block) (slot : Nat) :
    refInverseSlot key slot = invMixColumns (refRoundKey key (20 - slot)) :=
  (invMixColumns_eq_matrixTimes _).symm

/-- Over the forward schedule of a key, `Cipher` is AES-128 under that key (42_block_cipher.md R128). -/
theorem cipher_eq_refCipher {ks : Vector Block 20} {key : Block} (plain : Block)
    (forward : ∀ i : Fin 20, i.val ≤ 10 → ks[i] = refRoundKey key i.val) : cipher ks plain = refCipher key plain := by
  have slot (n : Nat) (h : n ≤ 10) : ks[n] = refRoundKey key n := forward ⟨n, by omega⟩ h
  have keys : [ks[1], ks[2], ks[3], ks[4], ks[5], ks[6], ks[7], ks[8], ks[9]] =
      [1, 2, 3, 4, 5, 6, 7, 8, 9].map (refRoundKey key) := by
    simp only [slot, Nat.reduceLeDiff, List.map_cons, List.map_nil]
  rw [cipher, refCipher, keys, List.foldl_map, slot 0 (by decide), slot 10 (by decide), encLastRound_eq_reference]
  simp only [encRound_eq_reference, addRoundKey]

/-- Over both schedules of a key, `InvCipher` is the true inverse cipher under that key (R85, 42_block_cipher.md R129). -/
theorem invCipher_eq_refInvCipher {ks : Vector Block 20} {key : Block} (crypt : Block)
    (forward : ∀ i : Fin 20, i.val ≤ 10 → ks[i] = refRoundKey key i.val)
    (inverse : ∀ i : Fin 20, 11 ≤ i.val → ks[i] = refInverseSlot key i.val) :
    invCipher ks crypt = refInvCipher key crypt := by
  have slot (n : Nat) (h : n ≤ 10) : ks[n] = refRoundKey key n := forward ⟨n, by omega⟩ h
  have transformed (n : Nat) (h : n < 20) (h' : 11 ≤ n) : ks[n] = invMixColumns (refRoundKey key (20 - n)) :=
    (inverse ⟨n, h⟩ h').trans (refInverseSlot_eq key n)
  have keys : [ks[11], ks[12], ks[13], ks[14], ks[15], ks[16], ks[17], ks[18], ks[19]] =
      [9, 8, 7, 6, 5, 4, 3, 2, 1].map fun r => invMixColumns (refRoundKey key r) := by
    simp only [transformed, Nat.reduceLeDiff, Nat.reduceSub, List.map_cons, List.map_nil]
  rw [invCipher, refInvCipher, keys, List.foldl_map, slot 0 (by decide), slot 10 (by decide), decLastRound_eq_reference]
  simp only [decRound_eq_reference, addRoundKey]

end Sys2Proof.Machine
end

section
/-! SUPPORT. The step and the commands as equations: which event a step runs, which word each command has, what an effect
leaves unchanged, and that an effect depends on the flags and on the slots the command reads alone. -/

namespace Sys2Proof.Machine

/-! ### The event a step runs -/

/-- With a legal word at the port, a step is the command it decodes to (20_memory.md R46). -/
theorem step_eq_exec {s : State} {cmd : CmdWord} {din : Block} {rest : List HostEvent} {i : Instr}
    (hp : s.pending = .command cmd din :: rest) (hd : decode cmd din = .command i) :
    step s = exec i { s with pending := rest } := by
  simp only [step, takeEvent_eq_some.mpr ⟨rest, hp, rfl⟩, hd]

/-- With an ILLEGAL word at the port, a step rejects it (30_encoding.md R59). -/
theorem step_eq_reject {s : State} {cmd : CmdWord} {din : Block} {rest : List HostEvent} {why : DecodeError}
    (hp : s.pending = .command cmd din :: rest) (hd : decode cmd din = .illegal why) :
    step s = .next (rejectCommand { s with pending := rest }) := by
  simp only [step, takeEvent_eq_some.mpr ⟨rest, hp, rfl⟩, hd]

/-- With a reset at the port, a step resets the core (70_reset_and_hazards.md R170). -/
theorem step_eq_reset {s : State} {rest : List HostEvent} (hp : s.pending = .reset :: rest) :
    step s = .next (applyReset { s with pending := rest }) := by
  simp only [step, takeEvent_eq_some.mpr ⟨rest, hp, rfl⟩]

/-- With nothing at the port, a step changes nothing (log entry 4). -/
theorem step_eq_self {s : State} (hp : s.pending = []) : step s = .next s := by
  simp only [step, takeEvent_eq_none.mpr hp]

/-- The step that takes a command word runs the command or rejects the word. -/
theorem step_command_cases {s t : State} {cmd : CmdWord} {din : Block} {rest : List HostEvent}
    (hp : s.pending = .command cmd din :: rest) (h : step s = .next t) :
    (∃ i, decode cmd din = .command i ∧ exec i { s with pending := rest } = .next t) ∨
      (∃ why, decode cmd din = .illegal why ∧ t = rejectCommand { s with pending := rest }) := by
  cases hd : decode cmd din with
  | command i => exact .inl ⟨i, rfl, step_eq_exec hp hd ▸ h⟩
  | illegal why => exact .inr ⟨why, rfl, next_inj (step_eq_reject hp hd ▸ h)⟩

/-- A run of one step more is a first step, and the run from there. -/
theorem runSteps_succ {k : Nat} {s t : State} (h : runSteps (k + 1) s = .next t) :
    ∃ u, step s = .next u ∧ runSteps k u = .next t := by
  simp only [runSteps, Host.Core.run] at h
  split at h
  · exact ⟨_, ‹_›, h⟩
  · cases h
  · cases h

/-! ### The words of the commands -/

/-- The mask of the RDKS row keeps every field but SLOT (30_encoding.md R62), in arithmetic. -/
theorem rdksMask_iff (cmd : CmdWord) :
    cmd &&& 0xFFFFE0FF#32 = 0x00000006#32 ↔ cmd.toNat / 8192 = 0 ∧ cmd.toNat / 16 % 16 = 0 ∧ cmd.toNat % 16 = 6 := by
  have op : opField (cmd &&& 0xFFFFE0FF#32) = opField cmd :=
    BitVec.extractLsb'_and.trans (BitVec.and_allOnes (x := opField cmd))
  have rsv0 : rsv0Field (cmd &&& 0xFFFFE0FF#32) = rsv0Field cmd :=
    BitVec.extractLsb'_and.trans (BitVec.and_allOnes (x := rsv0Field cmd))
  have rsv1 : rsv1Field (cmd &&& 0xFFFFE0FF#32) = rsv1Field cmd :=
    BitVec.extractLsb'_and.trans (BitVec.and_allOnes (x := rsv1Field cmd))
  have slot : slotField (cmd &&& 0xFFFFE0FF#32) = 0 :=
    BitVec.extractLsb'_and.trans (BitVec.and_zero (x := slotField cmd))
  obtain ⟨m1, m2, m3, m4⟩ := fields_toNat (cmd &&& 0xFFFFE0FF#32)
  obtain ⟨c1, c2, -, c4⟩ := fields_toNat cmd
  rw [op, c1] at m1
  rw [rsv0, c2] at m2
  rw [slot] at m3
  rw [rsv1, c4] at m4
  have zero : (0 : BitVec 5).toNat = 0 := rfl
  rw [← BitVec.toNat_inj, BitVec.toNat_ofNat]
  omega

/-- Decoding, by the words of 30_encoding.md R62. -/
theorem decode_byWord (cmd : CmdWord) (din : Block) : ∃ why, decode cmd din =
    if cmd = 0x00000000#32 then .command .nop
    else if cmd = 0x00000001#32 then .command (.kexp din)
    else if cmd = 0x00000002#32 then .command .kext
    else if cmd = 0x00000003#32 then .command (.kfull din)
    else if cmd = 0x00000004#32 then .command (.enc din)
    else if cmd = 0x00000005#32 then .command (.dec din)
    else if cmd &&& 0xFFFFE0FF#32 = 0x00000006#32 then .command (.rdks (cmd >>> 8).toNat)
    else .illegal why := by
  have number (k : Nat) (hk : k < 2 ^ 32) : cmd = BitVec.ofNat 32 k ↔ cmd.toNat = k := by
    rw [← BitVec.toNat_inj, BitVec.toNat_ofNat, Nat.mod_eq_of_lt hk]
  have slot : (cmd >>> 8).toNat = cmd.toNat / 256 := by
    rw [BitVec.toNat_ushiftRight, Nat.shiftRight_eq_div_pow]
  rw [decode_byNumber, slot]
  simp only [rdksMask_iff, number, Nat.reducePow, Nat.reduceLT]
  generalize cmd.toNat = v
  by_cases reserved : v / 8192 ≠ 0 ∨ v / 16 % 16 ≠ 0
  · have large : 5 < v := by omega
    refine ⟨.reservedBits, ?_⟩
    rw [if_pos reserved]
    repeat rw [if_neg (by omega)]
  · have noReserved : v / 8192 = 0 ∧ v / 16 % 16 = 0 := by omega
    have inField : v / 256 % 32 = v / 256 := by omega
    rw [if_neg reserved, inField]
    simp only [noReserved, true_and]
    by_cases slotted : v % 16 < 6
    · exact ⟨.slotNotZero, by rw [if_pos slotted]⟩
    · exact ⟨.reservedOp, by rw [if_neg slotted]⟩

/-- The words of the commands that build a half of the schedule. -/
theorem decode_builder_iff {cmd : CmdWord} {din : Block} {i : Instr} (hd : decode cmd din = .command i) :
    ((∃ key, i = .kexp key) ↔ cmd = 0x00000001#32) ∧ (i = .kext ↔ cmd = 0x00000002#32) ∧
      ((∃ key, i = .kfull key) ↔ cmd = 0x00000003#32) := by
  obtain ⟨why, words⟩ := decode_byWord cmd din
  rw [words] at hd
  split_ifs at hd <;> obtain rfl := Decoded.command.inj hd <;> simp_all

/-- An ILLEGAL word builds nothing. -/
theorem ne_builder_of_illegal {cmd : CmdWord} {din : Block} {why : DecodeError} (hd : decode cmd din = .illegal why) :
    cmd ≠ 0x00000001#32 ∧ cmd ≠ 0x00000002#32 ∧ cmd ≠ 0x00000003#32 := by
  refine ⟨?_, ?_, ?_⟩ <;> rintro rfl <;> cases hd

/-- A failing command is answered with its code. -/
theorem FailedWith.answered {code : Code} {s t : State} (h : FailedWith code s t) : Answered code s t := by
  obtain ⟨-, -, -, -, -, answered, -⟩ := h
  exact answered

/-! ### What an effect leaves -/

/-- Two states with the same registers, port and counter are equal. -/
theorem state_ext {s t : State} (ks : t.ks = s.ks) (fwd : t.fwdValid = s.fwdValid) (inv : t.invValid = s.invValid)
    (err : t.err = s.err) (dout : t.dout = s.dout) (pending : t.pending = s.pending)
    (responses : t.responses = s.responses) (draws : t.draws = s.draws) : t = s := by
  cases s
  cases t
  simp_all only

/-- Two schedules with the same slots are equal. -/
theorem slots_ext {ks ks' : Vector Block 20} (h : ∀ slot : Fin 20, ks'[slot] = ks[slot]) : ks' = ks :=
  Vector.ext fun n hn => h ⟨n, hn⟩

/-- A command that ends with OK writes the slots, the valid flags and DOUT at most. -/
theorem OkEffect.frame {i : Instr} {s u : State} (h : OkEffect i s u) :
    u.err = s.err ∧ u.pending = s.pending ∧ u.responses = s.responses ∧ u.draws = s.draws := by
  cases i with
  | nop | kexp _ | kfull _ => obtain rfl : u = _ := h; simp
  | kext | enc _ | dec _ => obtain ⟨-, rfl⟩ := h; simp
  | rdks n => obtain ⟨-, -, rfl⟩ := h; simp

/-- A command that ends with OK leaves the slots it does not write (10_state.md R24). -/
theorem OkEffect.unwritten {i : Instr} {s u : State} (h : OkEffect i s u) (slot : Fin 20)
    (hw : ¬ writesSlot i slot.val) : u.ks[slot] = s.ks[slot] := by
  cases i with
  | nop => obtain rfl : u = _ := h; rfl
  | kfull key => exact absurd trivial hw
  | enc _ | dec _ => obtain ⟨-, rfl⟩ := h; rfl
  | rdks n => obtain ⟨-, -, rfl⟩ := h; rfl
  | kexp key =>
    obtain rfl : u = _ := h
    have high : ¬ slot.val < 11 := fun low => hw (Nat.le_of_lt_succ low)
    simp [high]
  | kext =>
    obtain ⟨-, rfl⟩ := h
    have low : ¬ 11 ≤ slot.val := hw
    simp [low]

/-- A command that ends with OK lacked no half. -/
theorem OkEffect.not_needsUnbuiltHalf {i : Instr} {s u : State} (h : OkEffect i s u) : ¬ needsUnbuiltHalf i s := by
  cases i with
  | nop | kexp _ | kfull _ => exact id
  | kext | enc _ | dec _ =>
    obtain ⟨built, -⟩ := h
    simp [needsUnbuiltHalf, built]
  | rdks n =>
    obtain ⟨-, built, -⟩ := h
    rw [slotBuilt] at built
    rintro (⟨low, unbuilt⟩ | ⟨high, -, unbuilt⟩)
    · simp [low, unbuilt] at built
    · simp [show ¬ n ≤ 10 by omega, unbuilt] at built

/-- What the commands write to the valid flags (10_state.md R25, R26). -/
theorem OkEffect.validFlags {i : Instr} {s u : State} (h : OkEffect i s u) :
    (u.fwdValid = true ↔ s.fwdValid = true ∨ ∃ key, i = .kexp key ∨ i = .kfull key) ∧
      (u.invValid = true ↔ (∃ key, i = .kfull key) ∨ (i = .kext ∧ s.fwdValid = true) ∨
        (s.invValid = true ∧ ∀ key, i ≠ .kexp key)) := by
  cases i with
  | nop | kexp _ | kfull _ => obtain rfl : u = _ := h; simp
  | kext => obtain ⟨built, rfl⟩ := h; simp [built]
  | enc _ | dec _ => obtain ⟨-, rfl⟩ := h; simp
  | rdks n => obtain ⟨-, -, rfl⟩ := h; simp

/-- A slot of a built half was written by the command or was built before it. -/
theorem OkEffect.written_or_built {i : Instr} {s u : State} (h : OkEffect i s u) {n : Nat} (built : slotBuilt u n = true) :
    writesSlot i n ∨ slotBuilt s n = true := by
  obtain ⟨fwd, inv⟩ := h.validFlags
  by_cases low : n ≤ 10
  · simp only [slotBuilt, low, if_true] at built ⊢
    rcases fwd.mp built with before | ⟨key, rfl | rfl⟩
    · exact .inr before
    · exact .inl low
    · exact .inl trivial
  · simp only [slotBuilt, low, if_false] at built ⊢
    rcases inv.mp built with ⟨key, rfl⟩ | ⟨rfl, -⟩ | ⟨before, -⟩
    · exact .inl trivial
    · exact .inl (Nat.lt_of_not_le low)
    · exact .inr before

/-! ### The converse of `exec_cases` -/

/-- A command whose effect is possible ends with it. -/
theorem exec_of_okEffect {i : Instr} {s u : State} (h : OkEffect i s u) : exec i s = .next (respond .ok u) := by
  cases i with
  | nop | kexp _ | kfull _ => obtain rfl : u = _ := h; rfl
  | kext | enc _ | dec _ => obtain ⟨built, rfl⟩ := h; exact if_pos built
  | rdks n => obtain ⟨inRange, built, rfl⟩ := h; exact (dif_pos inRange).trans (if_pos built)

/-- A command that lacks a half fails with NOT_BUILT (60_exceptions.md R154). -/
theorem exec_of_needsUnbuiltHalf {i : Instr} {s : State} (h : needsUnbuiltHalf i s) :
    exec i s = .next (raiseError .notBuilt s) := by
  cases i with
  | nop | kexp _ | kfull _ => exact h.elim
  | kext | enc _ | dec _ => exact if_neg (Bool.eq_false_iff.mp h)
  | rdks n =>
    have inRange : n < 20 := by rcases h with ⟨_, _⟩ | ⟨_, _, _⟩ <;> omega
    have unbuilt : ¬ slotBuilt s n = true := by
      rcases h with ⟨low, unbuilt⟩ | ⟨high, _, unbuilt⟩
      · simp [slotBuilt, low, unbuilt]
      · simp [slotBuilt, show ¬ n ≤ 10 by omega, unbuilt]
    exact (dif_pos inRange).trans (if_neg unbuilt)

/-- RDKS of a slot the core does not have fails with SLOT_RANGE (60_exceptions.md R153). -/
theorem exec_rdks_of_le {n : Nat} (h : 20 ≤ n) (s : State) : exec (.rdks n) s = .next (raiseError .slotRange s) :=
  dif_neg (by omega)

/-! ### What a command leaves -/

/-- A command leaves the slots it does not write (10_state.md R24). -/
theorem exec_unwritten {i : Instr} {s t : State} (h : exec i s = .next t) (slot : Fin 20)
    (hw : ¬ writesSlot i slot.val) : t.ks[slot] = s.ks[slot] := by
  rcases exec_cases h with ⟨u, rfl, effect⟩ | ⟨rfl, -⟩ | ⟨rfl, -⟩
  · exact effect.unwritten slot hw
  · rfl
  · rfl

/-- A command leaves the port and the counter, as they were (R32, 20_memory.md R48). -/
theorem exec_port {i : Instr} {s t : State} (h : exec i s = .next t) : SamePort s t := by
  rcases exec_cases h with ⟨u, rfl, effect⟩ | ⟨rfl, -⟩ | ⟨rfl, -⟩
  · obtain ⟨-, pending, -, draws⟩ := effect.frame
    exact ⟨pending, draws⟩
  · exact ⟨rfl, rfl⟩
  · exact ⟨rfl, rfl⟩

/-- What a command leaves in the valid flags (R25, R26). -/
theorem exec_validFlags {i : Instr} {s t : State} (h : exec i s = .next t) :
    (t.fwdValid = true ↔ s.fwdValid = true ∨ ∃ key, i = .kexp key ∨ i = .kfull key) ∧
      (t.invValid = true ↔ (∃ key, i = .kfull key) ∨ (i = .kext ∧ s.fwdValid = true) ∨
        (s.invValid = true ∧ ∀ key, i ≠ .kexp key)) := by
  rcases exec_cases h with ⟨u, rfl, effect⟩ | ⟨rfl, unbuilt⟩ | ⟨rfl, n, -, rfl⟩
  · exact effect.validFlags
  · cases i with
    | nop | kexp _ | kfull _ => exact unbuilt.elim
    | kext => simp [show s.fwdValid = false from unbuilt]
    | enc _ | dec _ | rdks _ => simp
  · simp

/-- Every command is answered with the code of its cause, and a failing one sets ERR (60_exceptions.md R151 to R155). -/
theorem exec_answered {i : Instr} {s t : State} (h : exec i s = .next t) :
    ∃ code, Answered code s t ∧ code ≠ .illegal ∧ (code = .notBuilt ↔ needsUnbuiltHalf i s) ∧
      (code = .slotRange ↔ ∃ n, i = .rdks n ∧ 20 ≤ n) ∧ (code ≠ .ok → t.err = true) := by
  rcases exec_cases h with ⟨u, rfl, effect⟩ | ⟨rfl, unbuilt⟩ | ⟨rfl, n, outOfRange, rfl⟩
  · obtain ⟨-, -, responses, -⟩ := effect.frame
    refine ⟨.ok, respond_answered responses, by decide, ?_, ?_, fun h => absurd rfl h⟩
    · simpa using effect.not_needsUnbuiltHalf
    · have inRange : ¬ ∃ n, i = .rdks n ∧ 20 ≤ n := by
        rintro ⟨n, rfl, outOfRange⟩
        obtain ⟨inRange, -⟩ := effect
        omega
      simpa using inRange
  · refine ⟨.notBuilt, respond_answered rfl, by decide, by simpa using unbuilt, ?_, fun _ => rfl⟩
    have inRange : ¬ ∃ n, i = .rdks n ∧ 20 ≤ n := by
      rintro ⟨n, rfl, outOfRange⟩
      rcases unbuilt with ⟨_, -⟩ | ⟨-, _, -⟩ <;> omega
    simpa using inRange
  · refine ⟨.slotRange, respond_answered rfl, by decide, ?_, by simpa using outOfRange, fun _ => rfl⟩
    have needsNone : ¬ needsUnbuiltHalf (.rdks n) s := by
      rintro (⟨_, -⟩ | ⟨-, _, -⟩) <;> omega
    simpa using needsNone

/-! ### What an effect depends on -/

/-- `Cipher` reads slots 0 to 10 (42_block_cipher.md R120). -/
theorem cipher_congr {ks ks' : Vector Block 20} (plain : Block)
    (h : ∀ slot : Fin 20, slot.val ≤ 10 → ks'[slot] = ks[slot]) : cipher ks' plain = cipher ks plain := by
  have same (n : Nat) (hn : n ≤ 10) : ks'[n] = ks[n] := h ⟨n, by omega⟩ hn
  simp only [cipher, same, Nat.reduceLeDiff]

/-- `InvCipher` reads slot 0 and slots 10 to 19 (R121). -/
theorem invCipher_congr {ks ks' : Vector Block 20} (crypt : Block)
    (h : ∀ slot : Fin 20, slot.val = 0 ∨ 10 ≤ slot.val → ks'[slot] = ks[slot]) :
    invCipher ks' crypt = invCipher ks crypt := by
  have first : ks'[0] = ks[0] := h 0 (.inl rfl)
  have same (n : Nat) (hn : n < 20) (hn' : 10 ≤ n) : ks'[n] = ks[n] := h ⟨n, hn⟩ (.inr hn')
  simp only [invCipher, first, same, Nat.reduceLeDiff]

/-- The transformed keys are made of slots 1 to 9 (41_key_expansion.md R103). -/
theorem extendInverse_congr {ks ks' : Vector Block 20}
    (h : ∀ slot : Fin 20, 1 ≤ slot.val ∧ slot.val ≤ 9 → ks'[slot] = ks[slot]) :
    extendInverse (forwardHalf ks') = extendInverse (forwardHalf ks) := by
  apply Vector.ext
  intro m hm
  have same : ks'[10 - (m + 1)] = ks[10 - (m + 1)] := h ⟨10 - (m + 1), by omega⟩ (by simp only; omega)
  rw [extendInverse_getElem _ m hm, extendInverse_getElem _ m hm, forwardHalf_getElem, forwardHalf_getElem, same]

/-- What a command that ends with OK does is a function of the valid flags, DOUT and the slots it reads: from another state
with the same ones it ends with OK too, and leaves the same flags, DOUT and written slots (10_state.md R24, R32). -/
theorem OkEffect.transfer {i : Instr} {s s' u : State} (h : OkEffect i s u) (fwd : s'.fwdValid = s.fwdValid)
    (inv : s'.invValid = s.invValid) (dout : s'.dout = s.dout)
    (reads : ∀ slot : Fin 20, readsSlot i slot.val → s'.ks[slot] = s.ks[slot]) :
    ∃ u', OkEffect i s' u' ∧ u'.fwdValid = u.fwdValid ∧ u'.invValid = u.invValid ∧ u'.dout = u.dout ∧
      ∀ slot : Fin 20, writesSlot i slot.val → u'.ks[slot] = u.ks[slot] := by
  cases i with
  | nop => obtain rfl : u = _ := h; exact ⟨s', rfl, fwd, inv, dout, fun _ hw => hw.elim⟩
  | kexp key =>
    obtain rfl : u = _ := h
    refine ⟨_, rfl, by simp, by simp, by simp [dout], fun slot hw => ?_⟩
    have low : slot.val < 11 := Nat.lt_succ_of_le hw
    simp [low]
  | kext =>
    obtain ⟨built, rfl⟩ := h
    refine ⟨_, ⟨fwd.trans built, rfl⟩, by simp [fwd], by simp, by simp [dout], fun slot hw => ?_⟩
    have high : 11 ≤ slot.val := hw
    simp [high, extendInverse_congr reads]
  | kfull key =>
    obtain rfl : u = _ := h
    refine ⟨_, rfl, by simp, by simp, by simp [dout], fun slot _ => ?_⟩
    by_cases high : 11 ≤ slot.val
    · simp [high]
    · simp [high, show slot.val < 11 by omega]
  | enc plain =>
    obtain ⟨built, rfl⟩ := h
    exact ⟨_, ⟨fwd.trans built, rfl⟩, fwd, inv, cipher_congr plain reads, fun _ hw => hw.elim⟩
  | dec crypt =>
    obtain ⟨built, rfl⟩ := h
    exact ⟨_, ⟨inv.trans built, rfl⟩, fwd, inv, invCipher_congr crypt reads, fun _ hw => hw.elim⟩
  | rdks n =>
    obtain ⟨inRange, built, rfl⟩ := h
    have built' : slotBuilt s' n = true := by rw [slotBuilt, fwd, inv]; exact built
    exact ⟨_, ⟨inRange, built', rfl⟩, fwd, inv, reads ⟨n, inRange⟩ rfl, fun _ hw => hw.elim⟩

end Sys2Proof.Machine
end

section
/-! SUPPORT. The schedule invariant of spec/10_state.md R27 and the forward half of the last key (R22), kept by every step. -/

namespace Sys2Proof.Machine

/-- Writing a forward half and reading it back. -/
@[simp] theorem forwardHalf_writeForward (s : State) (rk : Vector Block 11) : forwardHalf (writeForward s rk).ks = rk := by
  apply Vector.ext
  intro n hn
  simp [hn]

/-- KFULL is KEXP and then KEXT (30_encoding.md R64). -/
theorem OkEffect.kfull_eq_kexp_kext {key : Block} {s u : State} (h : OkEffect (.kfull key) s u) :
    ∃ v, OkEffect (.kexp key) s v ∧ OkEffect .kext v u := by
  refine ⟨_, rfl, rfl, ?_⟩
  obtain rfl : u = _ := h
  rw [markForwardBuilt_ks, forwardHalf_writeForward]
  simp only [markBothBuilt, markInverseBuilt, markForwardBuilt, writeInverse]

/-- The slots KEXP leaves (41_key_expansion.md R102). -/
theorem OkEffect.kexp_slots {key : Block} {s u : State} (h : OkEffect (.kexp key) s u) (n : Nat) (hn : n ≤ 10) :
    u.ks[n] = roundKey key n := by
  obtain rfl : u = _ := h
  simp [Nat.lt_succ_of_le hn]

/-- The slots KEXT leaves: the forward half as it was, and the inverse half made of it (41_key_expansion.md R103). -/
theorem OkEffect.kext_slots {s u : State} (h : OkEffect .kext s u) :
    (∀ n, ∀ _ : n ≤ 10, u.ks[n] = s.ks[n]) ∧
      ∀ n, ∀ _ : 11 ≤ n ∧ n < 20, u.ks[n] = invMixColumns s.ks[20 - n] := by
  obtain ⟨-, rfl⟩ := h
  constructor
  · intro n hn
    simp [show ¬ 11 ≤ n by omega]
  · intro n hn
    simp [hn.1, show 10 - (n - 11 + 1) = 20 - n by omega]

/-- The invariant speaks of the slots and the valid flags alone. -/
theorem ScheduleInv.of_schedule {s t : State} (h : ScheduleInv s) (ks : t.ks = s.ks) (fwd : t.fwdValid = s.fwdValid)
    (inv : t.invValid = s.invValid) : ScheduleInv t where
  invNeedsFwd := by simpa only [fwd, inv] using h.invNeedsFwd
  forward := by simpa only [ks, fwd] using h.forward
  inverse := by simpa only [ks, inv] using h.inverse

/-- KEXP sets the invariant up, from any state (R22). -/
theorem OkEffect.kexp_scheduleInv {key : Block} {s u : State} (h : OkEffect (.kexp key) s u) : ScheduleInv u where
  invNeedsFwd _ := by simp [h.validFlags.1]
  forward _ i hi := (h.kexp_slots i.val hi).trans (by rw [h.kexp_slots 0 (by decide)]; rfl)
  inverse built := by simp [h.validFlags.2] at built

/-- KEXT keeps the invariant (R23). -/
theorem OkEffect.kext_scheduleInv {s u : State} (h : OkEffect .kext s u) (hs : ScheduleInv s) : ScheduleInv u := by
  obtain ⟨low, high⟩ := h.kext_slots
  have fwd : s.fwdValid = true := h.1
  refine ⟨fun _ => h.validFlags.1.mpr (.inl fwd), fun _ i hi => ?_, fun _ j hj => ?_⟩
  · calc u.ks[i] = s.ks[i] := low i.val hi
      _ = roundKey s.ks[0] i.val := hs.forward fwd i hi
      _ = roundKey u.ks[0] i.val := by rw [low 0 (by decide)]
  · rw [high (10 + j) (by omega), low (10 - j) (by omega)]
    simp only [show 20 - (10 + j) = 10 - j by omega]

/-- Every command that ends with OK keeps the invariant of R27. -/
theorem OkEffect.keeps_scheduleInv {i : Instr} {s u : State} (h : OkEffect i s u) (hs : ScheduleInv s) :
    ScheduleInv u := by
  cases i with
  | nop => obtain rfl : u = s := h; exact hs
  | kexp key => exact h.kexp_scheduleInv
  | kext => exact h.kext_scheduleInv hs
  | kfull key =>
    obtain ⟨v, expand, extend⟩ := h.kfull_eq_kexp_kext
    exact extend.kext_scheduleInv expand.kexp_scheduleInv
  | enc _ | dec _ => obtain ⟨-, rfl⟩ := h; exact hs.of_schedule rfl rfl rfl
  | rdks n => obtain ⟨-, -, rfl⟩ := h; exact hs.of_schedule rfl rfl rfl

/-- Where nothing is built the invariant holds, whatever the slots are. -/
theorem ScheduleInv.of_unbuilt {s : State} (fwd : s.fwdValid = false) (inv : s.invValid = false) : ScheduleInv s where
  invNeedsFwd built := by simp [inv] at built
  forward built := by simp [fwd] at built
  inverse built := by simp [inv] at built

/-- Settles O30. -/
theorem scheduleInvAtReset : Obligations.ScheduleInvAtReset := ScheduleInv.of_unbuilt rfl rfl

/-- Settles O31: a command's effect keeps the invariant, a failure leaves the schedule, and a reset builds nothing. -/
theorem everyStepKeepsTheScheduleInv : Obligations.EveryStepKeepsTheScheduleInv := by
  intro s t hs h
  rcases step_cases h with ⟨-, rfl⟩ | ⟨rest, -, rfl⟩ | ⟨cmd, din, rest, -, ⟨i, -, h⟩ | ⟨why, -, rfl⟩⟩
  · exact hs
  · exact ScheduleInv.of_unbuilt rfl rfl
  · have hs' : ScheduleInv { s with pending := rest } := hs.of_schedule rfl rfl rfl
    rcases exec_cases h with ⟨u, rfl, effect⟩ | ⟨rfl, -⟩ | ⟨rfl, -⟩
    · exact (effect.keeps_scheduleInv hs').of_schedule rfl rfl rfl
    · exact hs'.of_schedule rfl rfl rfl
    · exact hs'.of_schedule rfl rfl rfl
  · exact hs.of_schedule rfl rfl rfl

end Sys2Proof.Machine
end

section
/-! SUPPORT. Which half of the schedule the last KEXP or KFULL built (spec/10_state.md R22, R25), along any run. -/

namespace Sys2Proof.Machine

/-- The forward half is that of `key`, or is not built where there is no key (R22, R25). -/
def ForwardOf (key : Option Block) (s : State) : Prop :=
  (s.fwdValid = true ↔ key.isSome = true) ∧
    ∀ k, key = some k → ∀ i : Fin 20, i.val ≤ 10 → s.ks[i] = roundKey k i.val

/-- `ForwardOf` speaks of FWD_VALID and slots 0 to 10 alone. -/
theorem ForwardOf.of_schedule {key : Option Block} {s t : State} (h : ForwardOf key s)
    (fwd : t.fwdValid = true ↔ s.fwdValid = true) (ks : ∀ i : Fin 20, i.val ≤ 10 → t.ks[i] = s.ks[i]) :
    ForwardOf key t :=
  ⟨fwd.trans h.1, fun k hk i hi => (ks i hi).trans (h.2 k hk i hi)⟩

/-- KEXP and KFULL build the forward half of their key, from any state (41_key_expansion.md R102, R104). -/
theorem forwardOf_of_exec {i : Instr} {key : Block} {s t : State} (hi : i = .kexp key ∨ i = .kfull key)
    (h : exec i s = .next t) : ForwardOf (some key) t := by
  refine ⟨by simp [(exec_validFlags h).1.mpr (.inr ⟨key, hi⟩)], ?_⟩
  rintro k ⟨⟩ n low
  rcases exec_cases h with ⟨u, rfl, effect⟩ | ⟨-, unbuilt⟩ | ⟨-, n, -, rfl⟩
  · rcases hi with rfl | rfl
    · exact effect.kexp_slots n.val low
    · obtain ⟨v, expand, extend⟩ := effect.kfull_eq_kexp_kext
      exact (extend.kext_slots.1 n.val low).trans (expand.kexp_slots n.val low)
  · rcases hi with rfl | rfl <;> exact unbuilt.elim
  · simp at hi

/-- The other commands leave the forward half as it was. -/
theorem ForwardOf.exec_other {i : Instr} {key : Option Block} {s t : State} (hs : ForwardOf key s)
    (hi : ∀ key, ¬ (i = .kexp key ∨ i = .kfull key)) (h : exec i s = .next t) : ForwardOf key t := by
  refine hs.of_schedule (by simp [(exec_validFlags h).1, hi]) fun slot low => exec_unwritten h slot fun hw => ?_
  cases i with
  | nop | enc _ | dec _ | rdks _ => exact hw
  | kexp k => exact hi k (.inl rfl)
  | kfull k => exact hi k (.inr rfl)
  | kext => exact absurd low (Nat.not_le_of_lt hw)

/-- The last key, event by event. -/
theorem lastKey_cons (key : Option Block) (e : HostEvent) (rest : List HostEvent) :
    lastKey key (e :: rest) = lastKey (lastKey key [e]) rest := by
  cases e with
  | reset => rfl
  | command cmd din => simp only [lastKey]; split <;> rfl

/-- A step takes its event off the port, and the forward half is then that of the last key. -/
theorem ForwardOf.step {key : Option Block} {e : HostEvent} {rest : List HostEvent} {s t : State} (hs : ForwardOf key s)
    (hp : s.pending = e :: rest) (h : step s = .next t) : t.pending = rest ∧ ForwardOf (lastKey key [e]) t := by
  cases e with
  | reset =>
    obtain rfl := next_inj ((step_eq_reset hp).symm.trans h)
    exact ⟨rfl, by simp [lastKey], by simp [lastKey]⟩
  | command cmd din =>
    have hs' : ForwardOf key { s with pending := rest } := hs
    rcases step_command_cases hp h with ⟨i, hd, h⟩ | ⟨why, hd, rfl⟩
    · obtain ⟨kexp, -, kfull⟩ := decode_builder_iff hd
      refine ⟨(exec_port h).1, ?_⟩
      simp only [lastKey]
      split
      case isTrue rekey =>
        refine forwardOf_of_exec ?_ h
        rcases rekey with rfl | rfl
        · exact .inl (Decoded.command.inj hd).symm
        · exact .inr (Decoded.command.inj hd).symm
      case isFalse other =>
        refine hs'.exec_other ?_ h
        rintro k (rfl | rfl)
        · exact other (.inl (kexp.mp ⟨k, rfl⟩))
        · exact other (.inr (kfull.mp ⟨k, rfl⟩))
    · obtain ⟨notKexp, -, notKfull⟩ := ne_builder_of_illegal hd
      rw [lastKey, if_neg (by simp [notKexp, notKfull])]
      exact ⟨rfl, hs'.of_schedule Iff.rfl fun _ _ => rfl⟩

/-- Along a run of all that is issued, the forward half is that of the last key. -/
theorem ForwardOf.run {events : List HostEvent} : ∀ {key : Option Block} {s t : State}, ForwardOf key s →
    s.pending = events → runSteps events.length s = .next t → ForwardOf (lastKey key events) t := by
  induction events with
  | nil =>
    intro key s t hs _ h
    obtain rfl := next_inj h
    exact hs
  | cons e rest ih =>
    intro key s t hs hp h
    obtain ⟨u, first, later⟩ := runSteps_succ h
    obtain ⟨left, hu⟩ := hs.step hp first
    rw [lastKey_cons]
    exact ih hu left later

/-- Settles O34: nothing built is the forward half of no key, and every step then keeps `ForwardOf` of the last key. -/
theorem forwardSlotsBelongToTheLastKey : Obligations.ForwardSlotsBelongToTheLastKey := by
  intro s t unbuilt h
  have start : ForwardOf none s := ⟨by simp [unbuilt], by simp⟩
  exact start.run rfl h

end Sys2Proof.Machine
end

section
/-! SUPPORT. The statements on what a step runs, and on what the commands read, write and report (spec/10_state.md R24 to
R35). -/

namespace Sys2Proof.Machine

/-- Settles O7. -/
theorem stepRunsTheDecodedCommand : Obligations.StepRunsTheDecodedCommand :=
  fun _ _ _ _ _ hp hd => step_eq_exec hp hd

/-- Settles O10. -/
theorem idleStepLeavesEverything : Obligations.IdleStepLeavesEverything := fun _ hp => step_eq_self hp

/-- Settles O11. -/
theorem resetClearsFlagsAndDout : Obligations.ResetClearsFlagsAndDout :=
  ⟨⟨rfl, rfl, rfl, rfl⟩, fun _ _ hp => ⟨_, step_eq_reset hp, rfl, rfl, rfl, rfl⟩⟩

/-- From states that differ only in slots the command does not read, effects leave states that differ only in KS, with the
same values in the slots written (10_state.md R24). -/
theorem OkEffect.noninterference {i : Instr} {s u : State} {ks : Vector Block 20} (h : OkEffect i s u)
    (reads : ∀ slot : Fin 20, readsSlot i slot.val → ks[slot] = s.ks[slot]) :
    ∃ u', OkEffect i { s with ks := ks } u' ∧ u' = { u with ks := u'.ks } ∧
      ∀ slot : Fin 20, writesSlot i slot.val → u'.ks[slot] = u.ks[slot] := by
  obtain ⟨u', effect, fwd, inv, dout, written⟩ := h.transfer (s' := { s with ks := ks }) rfl rfl rfl reads
  obtain ⟨err, pending, responses, draws⟩ := h.frame
  obtain ⟨err', pending', responses', draws'⟩ := effect.frame
  exact ⟨u', effect, state_ext rfl fwd inv (err'.trans err.symm) dout (pending'.trans pending.symm)
    (responses'.trans responses.symm) (draws'.trans draws.symm), written⟩

/-- Settles O21: the effect of a command by `OkEffect.noninterference`; a failing command writes no slot, and fails from
both states. -/
theorem commandsReadAndWriteOnlyTheirSlots : Obligations.CommandsReadAndWriteOnlyTheirSlots := by
  intro i s s' t t' h h'
  refine ⟨exec_unwritten h, ?_⟩
  rintro ⟨same, reads⟩
  generalize s'.ks = ks at same reads
  subst same
  rcases exec_cases h with ⟨u, rfl, effect⟩ | ⟨rfl, unbuilt⟩ | ⟨rfl, n, outOfRange, rfl⟩
  · obtain ⟨u', effect', same, written⟩ := effect.noninterference reads
    obtain rfl := next_inj ((exec_of_okEffect effect').symm.trans h')
    exact ⟨by rw [same]; rfl, fun _ => written⟩
  · obtain rfl := next_inj ((exec_of_needsUnbuiltHalf (s := { s with ks := ks }) unbuilt).symm.trans h')
    exact ⟨rfl, fun ok => nomatch ok.code_unique (raiseError_failed .notBuilt s).answered⟩
  · obtain rfl := next_inj ((exec_rdks_of_le outOfRange _).symm.trans h')
    exact ⟨rfl, fun _ _ hw => hw.elim⟩

/-- Settles O22: the flags of the decoded command, read back to its word. -/
theorem validFlagsChangeOnlyByTheirCommands : Obligations.ValidFlagsChangeOnlyByTheirCommands := by
  intro s t h
  refine ⟨fun hp => ?_, fun rest hp => ?_, fun cmd din rest hp => ?_⟩
  · obtain rfl := next_inj ((step_eq_self hp).symm.trans h)
    exact ⟨rfl, rfl⟩
  · obtain rfl := next_inj ((step_eq_reset hp).symm.trans h)
    exact ⟨rfl, rfl⟩
  · rcases step_command_cases hp h with ⟨i, hd, h⟩ | ⟨why, hd, rfl⟩
    · obtain ⟨fwd, inv⟩ := exec_validFlags h
      obtain ⟨kexp, kext, kfull⟩ := decode_builder_iff hd
      exact ⟨by rw [fwd, exists_or, kexp, kfull], by rw [inv, kfull, kext, ← not_exists, kexp]⟩
    · simp [ne_builder_of_illegal hd]

/-- Settles O23: a failing command leaves DOUT, and so does the effect of the four commands that are no reads. -/
theorem doutIsWrittenOnlyBySuccessfulReads : Obligations.DoutIsWrittenOnlyBySuccessfulReads := by
  intro i s t h changed
  rcases exec_cases h with ⟨u, rfl, effect⟩ | ⟨rfl, -⟩ | ⟨rfl, -⟩
  · obtain ⟨-, -, responses, -⟩ := effect.frame
    refine ⟨respond_answered responses, ?_⟩
    cases i with
    | nop | kexp _ | kfull _ =>
      obtain rfl : u = _ := effect
      simp at changed
    | kext =>
      obtain ⟨-, rfl⟩ := effect
      simp at changed
    | enc plain =>
      obtain ⟨-, rfl⟩ := effect
      exact .inl ⟨plain, rfl, rfl⟩
    | dec crypt =>
      obtain ⟨-, rfl⟩ := effect
      exact .inr (.inl ⟨crypt, rfl, rfl⟩)
    | rdks n =>
      obtain ⟨inRange, -, rfl⟩ := effect
      exact .inr (.inr ⟨⟨n, inRange⟩, rfl, rfl⟩)
  · exact absurd rfl changed
  · exact absurd rfl changed

/-- STATUS of an answer, field by field (R30, 60_exceptions.md R151). -/
theorem Answered.status {code : Code} {s t : State} (h : Answered code s t) (failing : code ≠ .ok → t.err = true) :
    ∃ r, t.responses = s.responses ++ [r] ∧
      (∀ c, r.status.extractLsb' 0 4 = codeBits c ↔ code = c) ∧
      r.status.extractLsb' 0 4 ≤ 3#4 ∧ r.status.extractLsb' 4 4 = 0#4 ∧
      r.status.getLsbD 8 = t.fwdValid ∧ r.status.getLsbD 9 = t.invValid ∧ r.status.getLsbD 10 = t.err ∧
      r.status.extractLsb' 11 21 = 0#21 ∧ (r.status.extractLsb' 0 4 ≠ 0#4 → r.status.getLsbD 10 = true) := by
  obtain ⟨r, responses, status, -⟩ := h
  refine ⟨r, responses, fun c => ?_, ?_, status.reservedLow, status.fwd, status.inv, status.err, status.reservedHigh, ?_⟩
  · rw [status.code]
    exact ⟨codeBits_injective, congrArg codeBits⟩
  · rw [status.code]
    cases code <;> decide
  · rw [status.code, status.err]
    exact fun h => failing fun ok => h (by rw [ok]; rfl)

/-- Settles O27: a decoded command answers with the code of its cause, an ILLEGAL word with ILLEGAL. -/
theorem statusReportsFlagsAfterTheCommand : Obligations.StatusReportsFlagsAfterTheCommand := by
  intro s t cmd din rest hp h
  rcases step_command_cases hp h with ⟨i, hd, h⟩ | ⟨why, hd, rfl⟩
  · obtain ⟨code, answered, legal, notBuilt, slotRange, failing⟩ := exec_answered h
    obtain ⟨r, responses, bits, fields⟩ := answered.status failing
    have unbuilt : needsUnbuiltHalf i { s with pending := rest } ↔ needsUnbuiltHalf i s := Iff.rfl
    refine ⟨r, responses, (bits .illegal).trans ?_, (bits .notBuilt).trans ?_, (bits .slotRange).trans ?_, fields⟩
    · simp [hd, legal]
    · simp [hd, notBuilt, unbuilt]
    · simp [hd, slotRange]
  · obtain ⟨r, responses, bits, fields⟩ :=
      (raiseError_failed .illegal { s with pending := rest }).answered.status fun _ => rfl
    refine ⟨r, responses, (bits .illegal).trans ?_, (bits .notBuilt).trans ?_, (bits .slotRange).trans ?_, fields⟩ <;>
      simp [hd]

/-- An effect from a state with the same registers is the same effect. -/
theorem OkEffect.with_port {i : Instr} {s u : State} (h : OkEffect i s u) (pending : List HostEvent)
    (responses : List Response) (draws : Nat) :
    OkEffect i { s with pending := pending, responses := responses, draws := draws }
      { u with pending := pending, responses := responses, draws := draws } := by
  obtain ⟨u', effect, fwd, inv, dout, written⟩ :=
    h.transfer (s' := { s with pending := pending, responses := responses, draws := draws }) rfl rfl rfl fun _ _ => rfl
  obtain ⟨err, -, -, -⟩ := h.frame
  obtain ⟨err', pending', responses', draws'⟩ := effect.frame
  have ks : u'.ks = u.ks := slots_ext fun slot => by
    by_cases hw : writesSlot i slot.val
    · exact written slot hw
    · rw [effect.unwritten slot hw, h.unwritten slot hw]
  have same : u' = { u with pending := pending, responses := responses, draws := draws } :=
    state_ext ks fwd inv (err'.trans err.symm) dout pending' responses' draws'
  exact same ▸ effect

/-- Settles O29. -/
theorem commandsDependOnlyOnTheRegisters : Obligations.CommandsDependOnlyOnTheRegisters := by
  intro i s t pending responses draws h
  refine ⟨exec_port h, ?_⟩
  rcases exec_cases h with ⟨u, rfl, effect⟩ | ⟨rfl, unbuilt⟩ | ⟨rfl, n, outOfRange, rfl⟩
  · obtain ⟨-, -, same, -⟩ := effect.frame
    exact ⟨⟨statusOf .ok u, u.dout⟩, by rw [respond_responses, same],
      exec_of_okEffect (effect.with_port pending responses draws)⟩
  · exact ⟨_, rfl, exec_of_needsUnbuiltHalf unbuilt⟩
  · exact ⟨_, rfl, exec_rdks_of_le outOfRange _⟩

/-! ### Noninterference of the unbuilt slots (R33) -/

/-- Two states a host cannot tell apart hold the same values in the slots of the built halves. -/
theorem SameToHost.builtSlot {s s' : State} (h : SameToHost s s') (slot : Fin 20) (built : slotBuilt s slot.val = true) :
    s'.ks[slot] = s.ks[slot] := by
  rw [slotBuilt] at built
  split at built
  case isTrue low => exact h.forwardSlots built slot low
  case isFalse high => exact h.inverseSlots built slot (by omega)

/-- Two states that agree on all but the slots, and on the slots of the built halves, are the same to a host. -/
theorem SameToHost.of_builtSlots {s s' : State} (fwd : s'.fwdValid = s.fwdValid) (inv : s'.invValid = s.invValid)
    (err : s'.err = s.err) (dout : s'.dout = s.dout) (responses : s'.responses = s.responses)
    (pending : s'.pending = s.pending) (draws : s'.draws = s.draws)
    (slots : ∀ slot : Fin 20, slotBuilt s slot.val = true → s'.ks[slot] = s.ks[slot]) : SameToHost s s' where
  fwd := fwd
  inv := inv
  err := err
  dout := dout
  responses := responses
  pending := pending
  draws := draws
  forwardSlots built slot low := slots slot (by simp [slotBuilt, low, built])
  inverseSlots built slot high := slots slot (by simp [slotBuilt, show ¬ slot.val ≤ 10 by omega, built])

/-- Answering with the same code keeps two states the same to a host. -/
theorem SameToHost.respond {s s' : State} (h : SameToHost s s') (code : Code) :
    SameToHost (respond code s) (respond code s') where
  fwd := h.fwd
  inv := h.inv
  err := h.err
  dout := h.dout
  responses := by simp [statusOf, h.responses, h.fwd, h.inv, h.err, h.dout]
  pending := h.pending
  draws := h.draws
  forwardSlots := h.forwardSlots
  inverseSlots := h.inverseSlots

/-- Failing with the same code keeps two states the same to a host. -/
theorem SameToHost.raiseError {s s' : State} (h : SameToHost s s') (code : Code) :
    SameToHost (raiseError code s) (raiseError code s') :=
  have failed : SameToHost (markError s) (markError s') :=
    ⟨h.fwd, h.inv, rfl, h.dout, h.responses, h.pending, h.draws, h.forwardSlots, h.inverseSlots⟩
  failed.respond code

/-- A command that ends with OK reads built slots only (R33). -/
theorem OkEffect.reads_built {i : Instr} {s u : State} (h : OkEffect i s u)
    (invNeedsFwd : s.invValid = true → s.fwdValid = true) (n : Nat) (hr : readsSlot i n) : slotBuilt s n = true := by
  cases i with
  | nop | kexp _ | kfull _ => exact hr.elim
  | kext =>
    have low : n ≤ 10 := by have := hr.2; omega
    simp [slotBuilt, low, h.1]
  | enc _ =>
    have low : n ≤ 10 := hr
    simp [slotBuilt, low, h.1]
  | dec _ => simp [slotBuilt, h.1, invNeedsFwd h.1]
  | rdks m =>
    obtain ⟨-, built, -⟩ := h
    obtain rfl : n = m := hr
    exact built

/-- Effects keep two states the same to a host: what a command writes is made of built slots, and a slot it does not write
is built after it only if it was built before. -/
theorem OkEffect.sameToHost {i : Instr} {s s' u : State} (h : OkEffect i s u)
    (invNeedsFwd : s.invValid = true → s.fwdValid = true) (same : SameToHost s s') :
    ∃ u', OkEffect i s' u' ∧ SameToHost u u' := by
  obtain ⟨u', effect, fwd, inv, dout, written⟩ := h.transfer same.fwd same.inv same.dout
    fun slot hr => same.builtSlot slot (h.reads_built invNeedsFwd _ hr)
  obtain ⟨err, pending, responses, draws⟩ := h.frame
  obtain ⟨err', pending', responses', draws'⟩ := effect.frame
  refine ⟨u', effect, .of_builtSlots fwd inv (by rw [err', err, same.err]) dout
    (by rw [responses', responses, same.responses]) (by rw [pending', pending, same.pending])
    (by rw [draws', draws, same.draws]) fun slot built => ?_⟩
  by_cases hw : writesSlot i slot.val
  · exact written slot hw
  · rw [effect.unwritten slot hw, h.unwritten slot hw]
    exact same.builtSlot slot ((h.written_or_built built).resolve_left hw)

/-- Commands keep two states the same to a host. -/
theorem SameToHost.exec {i : Instr} {s s' t t' : State} (same : SameToHost s s')
    (invNeedsFwd : s.invValid = true → s.fwdValid = true) (h : exec i s = .next t) (h' : exec i s' = .next t') :
    SameToHost t t' := by
  rcases exec_cases h with ⟨u, rfl, effect⟩ | ⟨rfl, unbuilt⟩ | ⟨rfl, n, outOfRange, rfl⟩
  · obtain ⟨u', effect', same'⟩ := effect.sameToHost invNeedsFwd same
    obtain rfl := next_inj ((exec_of_okEffect effect').symm.trans h')
    exact same'.respond .ok
  · have unbuilt' : needsUnbuiltHalf i s' := by
      simpa only [needsUnbuiltHalf, same.fwd, same.inv] using unbuilt
    obtain rfl := next_inj ((exec_of_needsUnbuiltHalf unbuilt').symm.trans h')
    exact same.raiseError .notBuilt
  · obtain rfl := next_inj ((exec_rdks_of_le outOfRange _).symm.trans h')
    exact same.raiseError .slotRange

/-- Settles O35: a command by `SameToHost.exec`, and after a reset no half is built. -/
theorem unbuiltSlotsAreNeverObserved : Obligations.UnbuiltSlotsAreNeverObserved := by
  intro s s' t t' invNeedsFwd same h h'
  have left (rest : List HostEvent) : SameToHost { s with pending := rest } { s' with pending := rest } :=
    ⟨same.fwd, same.inv, same.err, same.dout, same.responses, rfl, same.draws, same.forwardSlots, same.inverseSlots⟩
  rcases step_cases h with ⟨hp, rfl⟩ | ⟨rest, hp, rfl⟩ | ⟨cmd, din, rest, hp, ⟨i, hd, h⟩ | ⟨why, hd, rfl⟩⟩ <;>
    have hp' := same.pending.trans hp
  · obtain rfl := next_inj ((step_eq_self hp').symm.trans h')
    exact same
  · obtain rfl := next_inj ((step_eq_reset hp').symm.trans h')
    exact ⟨rfl, rfl, rfl, rfl, rfl, rfl, congrArg (· + 1) same.draws, (fun h => nomatch h), (fun h => nomatch h)⟩
  · exact (left rest).exec invNeedsFwd h ((step_eq_exec hp' hd).symm.trans h')
  · obtain rfl := next_inj ((step_eq_reject hp' hd).symm.trans h')
    exact (left rest).raiseError .illegal

end Sys2Proof.Machine
end

section
/-! SUPPORT. The core as the machine that holds its key (spec/42_block_cipher.md R128): the key machine's answer to each word,
and the core's step beside it. -/

namespace Sys2Proof.Machine

section

/-! ### The key machine, word by word -/

variable {m : KeyMachine} {key din : Block}

/-- KEXT without a key (41_key_expansion.md R103). -/
theorem command_kext_none (hk : m.key = none) : m.command 0x00000002#32 din = m.fail .notBuilt := by
  simp [KeyMachine.command, hk]

/-- KEXT with a key (R103). -/
theorem command_kext_some (hk : m.key = some key) :
    m.command 0x00000002#32 din = ({ m with invBuilt := true }, .ok) := by
  simp [KeyMachine.command, hk]

/-- ENC without a key (42_block_cipher.md R122). -/
theorem command_enc_none (hk : m.key = none) : m.command 0x00000004#32 din = m.fail .notBuilt := by
  simp [KeyMachine.command, hk]

/-- ENC with a key (R122). -/
theorem command_enc_some (hk : m.key = some key) :
    m.command 0x00000004#32 din = ({ m with dout := refCipher key din }, .ok) := by
  simp [KeyMachine.command, hk]

/-- DEC without an inverse half (R123). -/
theorem command_dec_unbuilt (hb : m.key = none ∨ m.invBuilt = false) :
    m.command 0x00000005#32 din = m.fail .notBuilt := by
  rcases hb with hk | hb
  · simp [KeyMachine.command, hk]
  · cases hk : m.key <;> simp [KeyMachine.command, hk, hb]

/-- DEC with both halves (R123). -/
theorem command_dec_built (hk : m.key = some key) (hb : m.invBuilt = true) :
    m.command 0x00000005#32 din = ({ m with dout := refInvCipher key din }, .ok) := by
  simp [KeyMachine.command, hk, hb]

/-- RDKS without a key (43_control.md R141). -/
theorem readSlot_none (hk : m.key = none) (n : Nat) : m.readSlot n = m.fail .notBuilt := by
  simp [KeyMachine.readSlot, hk]

/-- RDKS of a forward slot with a key (R141). -/
theorem readSlot_forward (hk : m.key = some key) {n : Nat} (low : n ≤ 10) :
    m.readSlot n = ({ m with dout := refRoundKey key n }, .ok) := by
  simp [KeyMachine.readSlot, hk, low]

/-- RDKS of a built inverse slot (R141). -/
theorem readSlot_inverse (hk : m.key = some key) {n : Nat} (high : ¬ n ≤ 10) (hb : m.invBuilt = true) :
    m.readSlot n = ({ m with dout := refInverseSlot key n }, .ok) := by
  simp [KeyMachine.readSlot, hk, high, hb]

/-- RDKS of an unbuilt inverse slot (R141). -/
theorem readSlot_unbuilt {n : Nat} (high : ¬ n ≤ 10) (hb : m.invBuilt = false) : m.readSlot n = m.fail .notBuilt := by
  cases hk : m.key <;> simp [KeyMachine.readSlot, hk, high, hb]

/-! ### The core in step with it -/

/-- The core at `s` ends a command as the key machine does: in step with its next state, and with its code. -/
def AnswersAs (o : Host.Outcome State Fault Refusal) (s : State) (answer : KeyMachine × Code) : Prop :=
  ∃ t, o = .next t ∧ Holds t answer.1 ∧ Answered answer.2 s t ∧ t.pending = s.pending

variable {s t u : State}

/-- Being in step speaks of the registers alone. -/
theorem Holds.of_registers (h : Holds s m) (ks : t.ks = s.ks) (fwd : t.fwdValid = s.fwdValid)
    (inv : t.invValid = s.invValid) (err : t.err = s.err) (dout : t.dout = s.dout) : Holds t m where
  fwd := fwd.trans h.fwd
  inv := inv.trans h.inv
  invNeedsFwd := by simpa only [fwd, inv] using h.invNeedsFwd
  err := err.trans h.err
  dout := dout.trans h.dout
  forward := by simpa only [ks] using h.forward
  inverse := by simpa only [ks] using h.inverse

/-- Writing DOUT keeps the core in step with the key machine that writes its own. -/
theorem Holds.writeDout (h : Holds s m) (v : Block) : Holds (writeDout s v) { m with dout := v } :=
  ⟨h.fwd, h.inv, h.invNeedsFwd, h.err, rfl, h.forward, h.inverse⟩

/-- A core with nothing built is in step with the key machine that holds no key. -/
theorem Holds.of_unbuilt (hk : m.key = none) (fwd : s.fwdValid = false) (inv : s.invValid = false)
    (hb : m.invBuilt = false) (err : s.err = m.err) (dout : s.dout = m.dout) : Holds s m where
  fwd := by rw [fwd, hk]; rfl
  inv := inv.trans hb.symm
  invNeedsFwd := by simp [inv]
  err := err
  dout := dout
  forward := by simp [hk]
  inverse := by simp [hk]

/-- KEXP leaves the core in step with the machine that took the key (41_key_expansion.md R102). -/
theorem Holds.kexp (h : Holds s m) (effect : OkEffect (.kexp key) s u) :
    Holds u { m with key := some key, invBuilt := false } := by
  have inv : u.invValid = false := by simp [← Bool.not_eq_true, effect.validFlags.2]
  obtain ⟨err, -, -, -⟩ := effect.frame
  have dout : u.dout = s.dout := by obtain rfl : u = _ := effect; simp
  refine ⟨by simp [effect.validFlags.1], inv, by simp [inv], err.trans h.err, dout.trans h.dout, ?_, by simp⟩
  rintro k ⟨⟩ i low
  exact (effect.kexp_slots i.val low).trans (roundKey_eq_refRoundKey key i.val)

/-- KEXT leaves the core in step with the machine that has built its inverse half (R103). -/
theorem Holds.kext (h : Holds s m) (effect : OkEffect .kext s u) : Holds u { m with invBuilt := true } := by
  obtain ⟨low, high⟩ := effect.kext_slots
  obtain ⟨err, -, -, -⟩ := effect.frame
  have fwd : u.fwdValid = true := effect.validFlags.1.mpr (.inl effect.1)
  have inv : u.invValid = true := effect.validFlags.2.mpr (.inr (.inl ⟨rfl, effect.1⟩))
  have dout : u.dout = s.dout := by obtain ⟨-, rfl⟩ := effect; simp
  refine ⟨?_, inv, fun _ => fwd, err.trans h.err, dout.trans h.dout, fun k hk i hi => ?_, fun k hk _ i hi => ?_⟩
  · rw [fwd, ← h.fwd, effect.1]
  · exact (low i.val hi).trans (h.forward k hk i hi)
  · have source : s.ks[20 - i.val] = refRoundKey k (20 - i.val) :=
      h.forward k hk ⟨20 - i.val, by omega⟩ (by simp only; omega)
    exact (high i.val ⟨hi, i.isLt⟩).trans (by rw [source, refInverseSlot_eq])

/-- A command that ends with OK and an effect in step answers as the key machine does. -/
theorem OkEffect.answersAs {i : Instr} {m' : KeyMachine} (effect : OkEffect i s u) (h : Holds u m') :
    AnswersAs (exec i s) s (m', .ok) := by
  obtain ⟨-, pending, responses, -⟩ := effect.frame
  exact ⟨_, exec_of_okEffect effect, h.of_registers rfl rfl rfl rfl rfl, respond_answered responses, pending⟩

/-- A failing command answers as the key machine's failure does (60_exceptions.md R155). -/
theorem Holds.raiseError (h : Holds s m) (code : Code) : AnswersAs (.next (raiseError code s)) s (m.fail code) :=
  ⟨_, rfl, ⟨h.fwd, h.inv, h.invNeedsFwd, rfl, h.dout, h.forward, h.inverse⟩, respond_answered rfl, rfl⟩

/-- A command that lacks a half answers as the key machine's failure does. -/
theorem Holds.unbuilt {i : Instr} (h : Holds s m) (lacks : needsUnbuiltHalf i s) :
    AnswersAs (exec i s) s (m.fail .notBuilt) :=
  exec_of_needsUnbuiltHalf lacks ▸ h.raiseError .notBuilt

/-- Without a key FWD_VALID is 0 (10_state.md R25). -/
theorem Holds.fwd_of_none (h : Holds s m) (hk : m.key = none) : s.fwdValid = false := by rw [h.fwd, hk]; rfl

/-- With a key FWD_VALID is 1 (R25). -/
theorem Holds.fwd_of_some (h : Holds s m) (hk : m.key = some key) : s.fwdValid = true := by rw [h.fwd, hk]; rfl

/-- Without a key there is no inverse half either. -/
theorem Holds.inv_of_none (h : Holds s m) (hk : m.key = none) : s.invValid = false := by
  have fwd := h.fwd_of_none hk
  by_contra built
  simp [h.invNeedsFwd (by simpa using built)] at fwd

/-- KEXT and the key machine. -/
theorem Holds.answers_kext (h : Holds s m) : AnswersAs (exec .kext s) s (m.command 0x00000002#32 din) := by
  cases hk : m.key with
  | none =>
    rw [command_kext_none hk]
    exact h.unbuilt (h.fwd_of_none hk)
  | some key =>
    rw [command_kext_some hk]
    have effect : OkEffect .kext s _ := ⟨h.fwd_of_some hk, rfl⟩
    exact effect.answersAs (h.kext effect)

/-- KFULL and the key machine. -/
theorem Holds.answers_kfull (h : Holds s m) : AnswersAs (exec (.kfull din) s) s (m.command 0x00000003#32 din) := by
  have effect : OkEffect (.kfull din) s _ := rfl
  obtain ⟨v, expand, extend⟩ := effect.kfull_eq_kexp_kext
  exact effect.answersAs ((h.kexp expand).kext extend)

/-- ENC and the key machine (42_block_cipher.md R122). -/
theorem Holds.answers_enc (h : Holds s m) : AnswersAs (exec (.enc din) s) s (m.command 0x00000004#32 din) := by
  cases hk : m.key with
  | none =>
    rw [command_enc_none hk]
    exact h.unbuilt (h.fwd_of_none hk)
  | some key =>
    rw [command_enc_some hk, ← cipher_eq_refCipher din (h.forward key hk)]
    have effect : OkEffect (.enc din) s _ := ⟨h.fwd_of_some hk, rfl⟩
    exact effect.answersAs (h.writeDout _)

/-- DEC and the key machine (R123). -/
theorem Holds.answers_dec (h : Holds s m) : AnswersAs (exec (.dec din) s) s (m.command 0x00000005#32 din) := by
  cases hb : m.invBuilt with
  | false =>
    rw [command_dec_unbuilt (.inr hb)]
    exact h.unbuilt (h.inv.trans hb)
  | true =>
    cases hk : m.key with
    | none =>
      rw [command_dec_unbuilt (.inl hk)]
      exact h.unbuilt (h.inv_of_none hk)
    | some key =>
      rw [command_dec_built hk hb, ← invCipher_eq_refInvCipher din (h.forward key hk) (h.inverse key hk hb)]
      have effect : OkEffect (.dec din) s _ := ⟨h.inv.trans hb, rfl⟩
      exact effect.answersAs (h.writeDout _)

/-- RDKS of a slot of a built half, and a key machine that answers with the slot's value. -/
theorem Holds.answers_built_slot (h : Holds s m) {n : Nat} (inRange : n < 20) (built : slotBuilt s n = true) :
    AnswersAs (exec (.rdks n) s) s ({ m with dout := s.ks[n] }, .ok) := by
  have effect : OkEffect (.rdks n) s _ := ⟨inRange, built, rfl⟩
  exact effect.answersAs (h.writeDout _)

/-- RDKS of a slot the core has, and the key machine (43_control.md R141). -/
theorem Holds.answers_readSlot (h : Holds s m) {n : Nat} (inRange : n < 20) :
    AnswersAs (exec (.rdks n) s) s (m.readSlot n) := by
  by_cases low : n ≤ 10
  · cases hk : m.key with
    | none =>
      rw [readSlot_none hk]
      exact h.unbuilt (.inl ⟨low, h.fwd_of_none hk⟩)
    | some key =>
      have slot : s.ks[n] = refRoundKey key n := h.forward key hk ⟨n, inRange⟩ low
      rw [readSlot_forward hk low, ← slot]
      exact h.answers_built_slot inRange (by simp [slotBuilt, low, h.fwd_of_some hk])
  · have high : 11 ≤ n := by omega
    cases hb : m.invBuilt with
    | false =>
      rw [readSlot_unbuilt low hb]
      exact h.unbuilt (.inr ⟨high, by omega, h.inv.trans hb⟩)
    | true =>
      cases hk : m.key with
      | none => exact absurd ((h.inv_of_none hk).symm.trans (h.inv.trans hb)) (by decide)
      | some key =>
        have slot : s.ks[n] = refInverseSlot key n := h.inverse key hk hb ⟨n, inRange⟩ high
        rw [readSlot_inverse hk low hb, ← slot]
        exact h.answers_built_slot inRange (by simp [slotBuilt, low, h.inv, hb])

/-- RDKS and the key machine: SLOT_RANGE comes before NOT_BUILT (60_exceptions.md R156). -/
theorem Holds.answers_rdks (h : Holds s m) (n : Nat) :
    AnswersAs (exec (.rdks n) s) s (if 20 ≤ n then m.fail .slotRange else m.readSlot n) := by
  split
  case isTrue outOfRange => exact exec_rdks_of_le outOfRange s ▸ h.raiseError .slotRange
  case isFalse inRange => exact h.answers_readSlot (by omega)

/-- A step on a command word and the key machine: command by command, in the order of 30_encoding.md R62. -/
theorem Holds.answers_step {cmd : CmdWord} {rest : List HostEvent} (h : Holds s m)
    (hp : s.pending = .command cmd din :: rest) :
    AnswersAs (step s) { s with pending := rest } (m.command cmd din) := by
  have h' : Holds { s with pending := rest } m := h.of_registers rfl rfl rfl rfl rfl
  obtain ⟨why, hd⟩ := decode_byWord cmd din
  split_ifs at hd with nop kexp kext kfull enc dec rdks
  · subst nop
    have effect : OkEffect .nop { s with pending := rest } _ := rfl
    exact step_eq_exec hp hd ▸ effect.answersAs h'
  · subst kexp
    have effect : OkEffect (.kexp din) { s with pending := rest } _ := rfl
    exact step_eq_exec hp hd ▸ effect.answersAs (h'.kexp effect)
  · subst kext
    exact step_eq_exec hp hd ▸ h'.answers_kext
  · subst kfull
    exact step_eq_exec hp hd ▸ h'.answers_kfull
  · subst enc
    exact step_eq_exec hp hd ▸ h'.answers_enc
  · subst dec
    exact step_eq_exec hp hd ▸ h'.answers_dec
  · have answer : m.command cmd din =
        if 20 ≤ (cmd >>> 8).toNat then m.fail .slotRange else m.readSlot (cmd >>> 8).toNat := by
      simp only [KeyMachine.command, nop, kexp, kext, kfull, enc, dec, rdks, if_true, if_false]
    exact step_eq_exec hp hd ▸ answer ▸ h'.answers_rdks _
  · have answer : m.command cmd din = m.fail .illegal := by
      simp only [KeyMachine.command, nop, kexp, kext, kfull, enc, dec, rdks, if_false]
    exact step_eq_reject hp hd ▸ answer ▸ h'.raiseError .illegal

end

/-- Settles O57. -/
theorem keyMachineHoldsAtReset : Obligations.KeyMachineHoldsAtReset := Holds.of_unbuilt rfl rfl rfl rfl rfl rfl

/-- Settles O58: `Holds` is kept by every command word, and a reset builds nothing. -/
theorem coreRefinesTheKeyMachine : Obligations.CoreRefinesTheKeyMachine :=
  fun _ _ _ h => ⟨fun _ _ hp => h.answers_step hp,
    fun hp => ⟨_, step_eq_reset hp, Holds.of_unbuilt rfl rfl rfl rfl rfl rfl, rfl⟩⟩

end Sys2Proof.Machine
end

section
/-! SUPPORT. The command port (spec/20_memory.md): each command word it gives is answered once, and the bits of a Block are
those of its bytes and words. -/

namespace Sys2Proof.Machine

/-! ### Every command word is answered -/

/-- A command has its effect, lacks a half, or names a slot the core does not have: one of the cases of `exec_cases` always
applies (60_exceptions.md R153, R154). -/
theorem okEffect_or_fails (i : Instr) (s : State) :
    (∃ u, OkEffect i s u) ∨ needsUnbuiltHalf i s ∨ ∃ n, 20 ≤ n ∧ i = .rdks n := by
  cases i with
  | nop | kexp _ | kfull _ => exact .inl ⟨_, rfl⟩
  | kext | enc _ => exact s.fwdValid.eq_false_or_eq_true.imp (fun built => ⟨_, built, rfl⟩) .inl
  | dec _ => exact s.invValid.eq_false_or_eq_true.imp (fun built => ⟨_, built, rfl⟩) .inl
  | rdks n =>
    by_cases outOfRange : 20 ≤ n
    · exact .inr (.inr ⟨n, outOfRange, rfl⟩)
    · have inRange : n < 20 := Nat.lt_of_not_le outOfRange
      cases built : slotBuilt s n with
      | true => exact .inl ⟨_, inRange, built, rfl⟩
      | false =>
        rw [slotBuilt] at built
        split at built
        case isTrue low => exact .inr (.inl (.inl ⟨low, built⟩))
        case isFalse high => exact .inr (.inl (.inr ⟨by omega, by omega, built⟩))

/-- Every command ends in a next state (60_exceptions.md R150, 70_reset_and_hazards.md R178). -/
theorem exec_ends (i : Instr) (s : State) : ∃ t, exec i s = .next t := by
  rcases okEffect_or_fails i s with ⟨u, effect⟩ | unbuilt | ⟨n, outOfRange, rfl⟩
  · exact ⟨_, exec_of_okEffect effect⟩
  · exact ⟨_, exec_of_needsUnbuiltHalf unbuilt⟩
  · exact ⟨_, exec_rdks_of_le outOfRange s⟩

/-- A step on a command word, legal or not, takes that word alone off the port and answers it once. -/
theorem step_command_answered {s : State} {cmd : CmdWord} {din : Block} {rest : List HostEvent}
    (hp : s.pending = .command cmd din :: rest) :
    ∃ t code, step s = .next t ∧ SamePort { s with pending := rest } t ∧ Answered code { s with pending := rest } t := by
  cases hd : decode cmd din with
  | command i =>
    obtain ⟨t, ends⟩ := exec_ends i { s with pending := rest }
    obtain ⟨code, answered, -⟩ := exec_answered ends
    exact ⟨t, code, (step_eq_exec hp hd).trans ends, exec_port ends, answered⟩
  | illegal why => exact ⟨_, .illegal, step_eq_reject hp hd, ⟨rfl, rfl⟩, respond_answered rfl⟩

/-- Settles O12: the one response of `step_command_answered`. -/
theorem commandsAreAnsweredInOrder : Obligations.CommandsAreAnsweredInOrder := by
  intro s cmd din rest hp
  obtain ⟨t, code, ends, ⟨pending, -⟩, r, responses, -, dout⟩ := step_command_answered hp
  exact ⟨t, r, ends, pending, responses, dout⟩

/-! ### The bits of a Block -/

/-- Bit `k` of byte `i` is bit `8 * i + k` of the port value (20_memory.md R41). -/
theorem getLsbD_byteOf (b : Block) (i : Nat) {k : Nat} (hk : k < 8) :
    (byteOf b i).getLsbD k = b.getLsbD (8 * i + k) := by
  simp [byteOf, hk]

/-- Bit `k` of word `j` is bit `32 * j + k` of the port value (R42). -/
theorem getLsbD_wordOf (b : Block) (j : Nat) {k : Nat} (hk : k < 32) :
    (wordOf b j).getLsbD k = b.getLsbD (32 * j + k) := by
  simp [wordOf, hk]

/-- The bits of a Block built from its bytes (R41). -/
theorem getLsbD_blockOf (f : Nat → Byte) {i k : Nat} (hi : i < 16) (hk : k < 8) :
    (blockOf f).getLsbD (8 * i + k) = (f i).getLsbD k := by
  rw [← getLsbD_byteOf _ _ hk, byteOf_blockOf f i hi]

/-- Settles O56: the bit views of `byteOf`, `wordOf` and `blockOf`, and the key of the known answer evaluated. -/
theorem portByteOrder : Obligations.PortByteOrder :=
  ⟨fun f _ _ hi hk => getLsbD_blockOf f hi hk, fun b i _ _ hk => getLsbD_byteOf b i hk,
    fun b j k _ hk => wordByte_wordOf b j k hk, fun b j _ _ hk => getLsbD_wordOf b j hk, fun _ _ _ _ _ => rfl, by decide⟩

end Sys2Proof.Machine
end

section
/-! SUPPORT. The encoding (spec/30_encoding.md): the words R62 lists, the command each decodes to, and what DIN decides. -/

namespace Sys2Proof.Machine

/-! ### The words of RDKS -/

/-- R62's word of RDKS, as a number. -/
theorem rdksWord_toNat {slot : Nat} (fits : slot < 32) :
    (0x00000006#32 ||| (BitVec.ofNat 32 slot <<< 8)).toNat = 256 * slot + 6 := by
  have noWrap : slot <<< 8 < 2 ^ 32 := by rw [Nat.shiftLeft_eq]; omega
  rw [BitVec.or_comm, BitVec.toNat_or, BitVec.toNat_shiftLeft, BitVec.toNat_ofNat, Nat.mod_eq_of_lt (a := slot) (by omega),
    Nat.mod_eq_of_lt noWrap, ← Nat.shiftLeft_add_eq_or_of_lt (by decide : (0x00000006#32).toNat < 2 ^ 8), Nat.shiftLeft_eq]
  exact congrArg (· + 6) (Nat.mul_comm slot 256)

/-- A packed word, as a number: SLOT from bit 8 up and OP below (R55). -/
theorem packWord_toNat (op : BitVec 4) (slot : BitVec 5) : (packWord op slot).toNat = 256 * slot.toNat + op.toNat := by
  rw [packWord, BitVec.toNat_append, BitVec.toNat_append, BitVec.toNat_append,
    ← Nat.shiftLeft_add_eq_or_of_lt op.isLt, ← Nat.shiftLeft_add_eq_or_of_lt (0#4).isLt,
    ← Nat.shiftLeft_add_eq_or_of_lt slot.isLt]
  simp only [Nat.shiftLeft_eq, BitVec.toNat_ofNat]
  omega

/-- The encoder's word of RDKS is R62's. -/
theorem encodeWord_rdks {slot : Nat} (fits : slot < 32) :
    encodeWord (.rdks slot) = 0x00000006#32 ||| (BitVec.ofNat 32 slot <<< 8) := by
  apply BitVec.eq_of_toNat_eq
  rw [rdksWord_toNat fits, encodeWord, packWord_toNat, BitVec.toNat_ofNat, Nat.mod_eq_of_lt fits]
  rfl

/-- The mask of the RDKS row selects exactly R62's words of RDKS. -/
theorem rdksMask_iff_rdksWord (cmd : CmdWord) :
    cmd &&& 0xFFFFE0FF#32 = 0x00000006#32 ↔ ∃ slot < 32, cmd = 0x00000006#32 ||| (BitVec.ofNat 32 slot <<< 8) := by
  rw [rdksMask_iff]
  constructor
  · intro fields
    have fits : cmd.toNat / 256 < 32 := by omega
    refine ⟨cmd.toNat / 256, fits, BitVec.eq_of_toNat_eq ?_⟩
    rw [rdksWord_toNat fits]
    omega
  · rintro ⟨slot, fits, rfl⟩
    rw [rdksWord_toNat fits]
    omega

/-- The words of RDKS decode to it, whatever DIN is (R57, R61). -/
theorem decode_rdksWord {slot : Nat} (fits : slot < 32) (din : Block) :
    decode (0x00000006#32 ||| (BitVec.ofNat 32 slot <<< 8)) din = .command (.rdks slot) := by
  have reserved : ¬ ((256 * slot + 6) / 8192 ≠ 0 ∨ (256 * slot + 6) / 16 % 16 ≠ 0) := by omega
  have op : (256 * slot + 6) % 16 = 6 := by omega
  have field : (256 * slot + 6) / 256 % 32 = slot := by omega
  rw [decode_byNumber, rdksWord_toNat fits, if_neg reserved]
  simp [op, field]

/-! ### The words R62 lists -/

/-- Settles O1: the fields of a word written out evaluate. -/
theorem writtenOutWordsDecode : Obligations.WrittenOutWordsDecode :=
  fun _ => ⟨rfl, rfl, rfl, rfl, rfl, rfl, rfl, rfl⟩

/-- Settles O2: the word of RDKS carries its SLOT, and each other command has one word, written out in O1. -/
theorem decodeOfEncodeGivesTheCommand : Obligations.DecodeOfEncodeGivesTheCommand := by
  intro i wf
  obtain ⟨nop, kexp, kext, kfull, enc, dec, -⟩ := writtenOutWordsDecode (encodeDin i)
  cases i with
  | nop => exact nop
  | kexp _ => exact kexp
  | kext => exact kext
  | kfull _ => exact kfull
  | enc _ => exact enc
  | dec _ => exact dec
  | rdks slot =>
    have fits : slot < 32 := of_decide_eq_true wf
    rw [encode, encodeWord_rdks fits]
    exact decode_rdksWord fits _

/-- The ILLEGAL words are those R62 does not list. -/
theorem decode_illegal_iff (cmd : CmdWord) (din : Block) :
    (∃ why, decode cmd din = .illegal why) ↔ 5 < cmd.toNat ∧ ¬ cmd &&& 0xFFFFE0FF#32 = 0x00000006#32 := by
  have listed : cmd.toNat ≤ 5 ↔ cmd = 0x00000000#32 ∨ cmd = 0x00000001#32 ∨ cmd = 0x00000002#32 ∨
      cmd = 0x00000003#32 ∨ cmd = 0x00000004#32 ∨ cmd = 0x00000005#32 := by
    simp only [← BitVec.toNat_inj, BitVec.toNat_ofNat]
    omega
  obtain ⟨why, words⟩ := decode_byWord cmd din
  rw [words, ← Nat.not_le, listed]
  split_ifs <;> simp_all

/-- Settles O3: the words of each command, the words of none, and the slots RDKS does not have. -/
theorem legalWordsAreExactlyThese : Obligations.LegalWordsAreExactlyThese := by
  intro cmd din i
  refine ⟨⟨fun hd => ?_, ?_⟩, ?_, fun slot s outOfRange _ =>
    ⟨_, exec_rdks_of_le outOfRange s, raiseError_failed .slotRange s⟩⟩
  · by_cases rdks : cmd &&& 0xFFFFE0FF#32 = 0x00000006#32
    · obtain ⟨slot, fits, rfl⟩ := (rdksMask_iff_rdksWord cmd).mp rdks
      have decoded : i = .rdks slot := (Decoded.command.inj ((decode_rdksWord fits din).symm.trans hd)).symm
      iterate 6 right
      exact ⟨slot, fits, rfl, decoded⟩
    · obtain ⟨why, words⟩ := decode_byWord cmd din
      rw [words, if_neg rdks] at hd
      split_ifs at hd <;> simp_all
  · obtain ⟨nop, kexp, kext, kfull, enc, dec, -⟩ := writtenOutWordsDecode din
    rintro (⟨rfl, rfl⟩ | ⟨rfl, rfl⟩ | ⟨rfl, rfl⟩ | ⟨rfl, rfl⟩ | ⟨rfl, rfl⟩ | ⟨rfl, rfl⟩ | ⟨slot, fits, rfl, rfl⟩)
    exacts [nop, kexp, kext, kfull, enc, dec, decode_rdksWord fits din]
  · rw [decode_illegal_iff, rdksMask_iff_rdksWord]
    simp only [not_exists, not_and]

/-! ### The opcode table -/

/-- A row that fixes all bits of a word holds one word. -/
theorem covers_full (mnemonic : String) (bits cmd : CmdWord) :
    (OpcodeRow.mk mnemonic 0xFFFFFFFF#32 bits).covers cmd = (cmd == bits) :=
  congrArg (· == bits) (BitVec.and_allOnes (x := cmd))

/-- Above 5 the only row that can hold a word is the row of RDKS. -/
theorem filter_opcodeTable_of_lt {cmd : CmdWord} (large : 5 < cmd.toNat) :
    opcodeTable.filter (fun row => row.covers cmd) =
      if cmd &&& 0xFFFFE0FF#32 = 0x00000006#32 then [⟨"RDKS", 0xFFFFE0FF#32, 0x00000006#32⟩] else [] := by
  have other (k : Nat) (hk : k ≤ 5) : (cmd == BitVec.ofNat 32 k) = false := by
    rw [beq_eq_false_iff_ne, Ne, ← BitVec.toNat_inj, BitVec.toNat_ofNat]
    omega
  have rdksRow (mnemonic : String) : (OpcodeRow.mk mnemonic 0xFFFFE0FF#32 0x00000006#32).covers cmd =
    (cmd &&& 0xFFFFE0FF#32 == 0x00000006#32) := rfl
  simp [opcodeTable, List.filter_cons, covers_full, rdksRow, other]

/-- Settles O5: the words 0 to 5 have a row each, and above them only the row of RDKS is left. -/
theorem opcodeTableRowsDecideDecoding : Obligations.OpcodeTableRowsDecideDecoding := by
  intro cmd din
  refine ⟨fun i hd => ?_, fun why hd => ?_⟩
  · obtain ⟨words, -⟩ := legalWordsAreExactlyThese cmd din i
    rcases words.mp hd with
      ⟨rfl, rfl⟩ | ⟨rfl, rfl⟩ | ⟨rfl, rfl⟩ | ⟨rfl, rfl⟩ | ⟨rfl, rfl⟩ | ⟨rfl, rfl⟩ | ⟨slot, fits, word, rfl⟩
    case inr.inr.inr.inr.inr.inr =>
      have large : 5 < cmd.toNat := by
        rw [word, rdksWord_toNat fits]
        omega
      rw [filter_opcodeTable_of_lt large, if_pos ((rdksMask_iff_rdksWord cmd).mpr ⟨slot, fits, word⟩)]
      rfl
    all_goals rfl
  · obtain ⟨large, notRdks⟩ := (decode_illegal_iff cmd din).mp ⟨why, hd⟩
    rw [filter_opcodeTable_of_lt large, if_neg notRdks]

/-! ### DIN -/

/-- DIN does not decide what the words of NOP, KEXT and RDKS decode to (R61). -/
theorem decode_din_irrel {cmd : CmdWord}
    (unused : cmd = 0x00000000#32 ∨ cmd = 0x00000002#32 ∨ cmd &&& 0xFFFFE0FF#32 = 0x00000006#32) (din din' : Block) :
    decode cmd din = decode cmd din' := by
  rcases unused with rfl | rfl | rdks
  · rfl
  · rfl
  · obtain ⟨slot, fits, rfl⟩ := (rdksMask_iff_rdksWord cmd).mp rdks
    rw [decode_rdksWord fits, decode_rdksWord fits]

/-- A step sees of the command word and DIN only what they decode to. -/
theorem step_congr_decode (s : State) {cmd cmd' : CmdWord} {din din' : Block} (rest : List HostEvent)
    (same : decode cmd din = decode cmd' din') :
    step { s with pending := .command cmd din :: rest } = step { s with pending := .command cmd' din' :: rest } := by
  cases hd : decode cmd din with
  | command i => rw [step_eq_exec rfl hd, step_eq_exec rfl (same.symm.trans hd)]
  | illegal why => rw [step_eq_reject rfl hd, step_eq_reject rfl (same.symm.trans hd)]

/-- Settles O6: `decode_illegal_iff` does not speak of DIN, and equal decodings make equal steps. -/
theorem dinIsIgnoredWhereUnused : Obligations.DinIsIgnoredWhereUnused :=
  ⟨fun cmd din din' => (decode_illegal_iff cmd din).trans (decode_illegal_iff cmd din').symm,
    fun _ din din' s rest unused => step_congr_decode s rest (decode_din_irrel unused din din')⟩

/-! ### ILLEGAL words and KFULL -/

/-- Settles O8. -/
theorem stepAnswersIllegalWords : Obligations.StepAnswersIllegalWords :=
  fun _ _ _ _ _ hp hd => ⟨_, step_eq_reject hp hd, raiseError_failed .illegal _⟩

/-- Settles O39: the effect of KFULL is that of KEXP and then KEXT, and the answer to KEXP leaves KEXT its registers. -/
theorem kfullEqualsKexpThenKext : Obligations.KfullEqualsKexpThenKext := by
  intro key s
  obtain ⟨u, kfull⟩ : ∃ u, OkEffect (.kfull key) s u := ⟨_, rfl⟩
  obtain ⟨v, kexp, kext⟩ := kfull.kfull_eq_kexp_kext
  obtain ⟨-, pending, -, draws⟩ := kext.frame
  refine ⟨_, _, _, exec_of_okEffect kexp,
    exec_of_okEffect (kext.with_port v.pending (respond .ok v).responses v.draws), exec_of_okEffect kfull, ?_⟩
  exact state_ext rfl rfl rfl rfl rfl pending rfl draws

end Sys2Proof.Machine
end

section
/-! SUPPORT. The assembler (spec/30_encoding.md R63): hexadecimal and decimal digits read back, a line parted into its
words, and the forms of a line. -/

namespace Sys2Proof.Machine

/-! ### Digits -/

/-- A hexadecimal digit reads back as its value. -/
theorem hexValue_hexDigit {n : Nat} (hn : n < 16) : hexValue (hexDigit n) = some n := by
  interval_cases n <;> rfl

/-- A byte reads back from its two digits. -/
theorem hexBytes_hexOfByte_append (b : Byte) (rest : List Char) :
    hexBytes (hexOfByte b ++ rest) = (hexBytes rest).map (b :: ·) := by
  have value : BitVec.ofNat 8 (16 * (b.toNat / 16) + b.toNat % 16) = b := by
    rw [Nat.div_add_mod, BitVec.ofNat_toNat, BitVec.setWidth_eq]
  have high : hexValue (hexDigit (b.toNat / 16)) = some (b.toNat / 16) := hexValue_hexDigit (by omega)
  have low : hexValue (hexDigit (b.toNat % 16)) = some (b.toNat % 16) := hexValue_hexDigit (by omega)
  cases tail : hexBytes rest <;> simp [hexOfByte, hexBytes, high, low, tail, value]

/-- Bytes read back from their digits (00_scope.md R10). -/
theorem hexBytes_flatMap_hexOfByte (bytes : List Byte) : hexBytes (bytes.flatMap hexOfByte) = some bytes := by
  induction bytes with
  | nil => rfl
  | cons b bytes ih => rw [List.flatMap_cons, hexBytes_hexOfByte_append, ih]; rfl

/-- The digits of a Block are those of its bytes in order (R10). -/
theorem hexOfBlock_eq (b : Block) : hexOfBlock b = ((List.range 16).map (byteOf b)).flatMap hexOfByte := rfl

/-- A Block reads back from its digits (R10). -/
theorem blockOfHex_hexOfBlock (b : Block) : blockOfHex (hexOfBlock b) = some b := by
  have length : (hexOfBlock b).length = 32 := rfl
  rw [blockOfHex, if_pos length, hexOfBlock_eq, hexBytes_flatMap_hexOfByte, Option.map_some]
  refine congrArg some (block_ext fun i hi => ?_)
  simp [hi]

/-- A command word reads back from its digits, the most significant first (R63). -/
theorem cmdOfHex_flatMap_hexOfByte (b3 b2 b1 b0 : Byte) :
    cmdOfHex ([b3, b2, b1, b0].flatMap hexOfByte) = some (b3 ++ b2 ++ b1 ++ b0) := by
  rw [cmdOfHex, hexBytes_flatMap_hexOfByte]

/-- A decimal digit counts as the unit of ten times what stands before it. -/
theorem decimalValue_hexDigit_cons (acc : Nat) {d : Nat} (hd : d < 10) (rest : List Char) :
    decimalValue acc (hexDigit d :: rest) = decimalValue (10 * acc + d) rest := by
  interval_cases d <;> rfl

/-! ### The words of a line -/

/-- A text with no separator and no comment in it. -/
def isPlain (text : List Char) : Bool := text.all fun c => c != ';' && !isSeparator c

/-- A text is plain character by character. -/
theorem isPlain_cons {c : Char} {text : List Char} :
    isPlain (c :: text) = true ↔ (c ≠ ';' ∧ isSeparator c = false) ∧ isPlain text = true := by
  simp [isPlain]

/-- Plain texts written together are plain. -/
theorem isPlain_append {text text' : List Char} (plain : isPlain text = true) (plain' : isPlain text' = true) :
    isPlain (text ++ text') = true := by
  rw [isPlain, List.all_append]
  exact Bool.and_eq_true_iff.mpr ⟨plain, plain'⟩

/-- A hexadecimal digit is plain. -/
theorem isPlain_hexDigit {n : Nat} (hn : n < 16) : isPlain [hexDigit n] = true := by
  interval_cases n <;> rfl

/-- The digits of bytes are plain. -/
theorem isPlain_flatMap_hexOfByte (bytes : List Byte) : isPlain (bytes.flatMap hexOfByte) = true := by
  induction bytes with
  | nil => rfl
  | cons b bytes ih =>
    have high := isPlain_hexDigit (n := b.toNat / 16) (by omega)
    have low := isPlain_hexDigit (n := b.toNat % 16) (by omega)
    exact isPlain_append (isPlain_append high low) ih

/-- A comment begins after the plain text before it. -/
theorem dropComment_append {text : List Char} (plain : isPlain text = true) (rest : List Char) :
    dropComment (text ++ rest) = text ++ dropComment rest := by
  induction text with
  | nil => rfl
  | cons c text ih =>
    obtain ⟨⟨noComment, -⟩, plain⟩ := isPlain_cons.mp plain
    simp [dropComment, noComment, ih plain]

/-- Plain text belongs to the word being read. -/
theorem splitWords_append {text : List Char} (plain : isPlain text = true) (word rest : List Char) :
    splitWords word (text ++ rest) = splitWords (text.reverse ++ word) rest := by
  induction text generalizing word with
  | nil => rfl
  | cons c text ih =>
    obtain ⟨⟨-, noSeparator⟩, plain⟩ := isPlain_cons.mp plain
    simp [splitWords, noSeparator, ih plain]

/-- A word of a line: plain, and not empty. -/
structure IsWord (word : List Char) : Prop where
  nonempty : word ≠ []
  plain : isPlain word = true

/-- The digits of bytes are a word. -/
theorem isWord_flatMap_hexOfByte (b : Byte) (bytes : List Byte) : IsWord ((b :: bytes).flatMap hexOfByte) :=
  ⟨List.cons_ne_nil _ _, isPlain_flatMap_hexOfByte _⟩

/-- The digits of a Block are a word. -/
theorem isWord_hexOfBlock (b : Block) : IsWord (hexOfBlock b) :=
  ⟨List.cons_ne_nil _ _, hexOfBlock_eq b ▸ isPlain_flatMap_hexOfByte _⟩

/-- The words of a line, its comment dropped. -/
def lineWords (line : List Char) : List (List Char) := splitWords [] (dropComment line)

/-- The assembler sees of a line its words alone. -/
theorem assembleLine_eq (line : List Char) : assembleLine line = assembleWords (lineWords line) := rfl

/-- A line of one word. -/
theorem IsWord.lineWords_eq {word : List Char} (hw : IsWord word) : lineWords word = [word] := by
  have split := splitWords_append hw.plain [] []
  have drop := dropComment_append hw.plain []
  simp only [List.append_nil, dropComment] at split drop
  simp [lineWords, drop, split, splitWords, hw.nonempty]

/-- A space ends a word. -/
theorem IsWord.lineWords_append_space {word : List Char} (hw : IsWord word) (line : List Char) :
    lineWords (word ++ ' ' :: line) = word :: lineWords line := by
  have space : dropComment (' ' :: line) = ' ' :: dropComment line := rfl
  have separator : isSeparator ' ' = true := rfl
  rw [lineWords, dropComment_append hw.plain, splitWords_append hw.plain, space]
  simp [lineWords, splitWords, separator, hw.nonempty]

/-! ### The forms of a line -/

/-- A mnemonic with one operand. -/
theorem assembleLine_operand {mnemonic operand : List Char} (hm : IsWord mnemonic) (ho : IsWord operand) :
    assembleLine (mnemonic ++ ' ' :: operand) = assembleWords [mnemonic, operand] := by
  rw [assembleLine_eq, hm.lineWords_append_space, ho.lineWords_eq]

/-- A mnemonic with a Block. -/
theorem assembleLine_block {mnemonic : List Char} (hm : IsWord mnemonic) {build : Block → Instr}
    (form : ∀ a, assembleWords [mnemonic, a] = assembleWithBlock build a) (b : Block) :
    assembleLine (mnemonic ++ ' ' :: hexOfBlock b) = assembleInstr (build b) := by
  rw [assembleLine_operand hm (isWord_hexOfBlock b), form, assembleWithBlock, blockOfHex_hexOfBlock]

/-- `rdks` with a slot the assembler may name, and with one it may not (R63). -/
theorem assembleInstr_rdks (slot : Nat) : assembleInstr (.rdks slot) =
    if slot ≤ 19 then .issue (0x00000006#32 ||| (BitVec.ofNat 32 slot <<< 8)) 0 else .refused := by
  by_cases allowed : slot ≤ 19
  · simp [assembleInstr, Instr.assemblable, allowed, encodeWord_rdks (show slot < 32 by omega), encodeDin]
  · simp [assembleInstr, Instr.assemblable, allowed]

/-- `rdks` with the digits of a slot. -/
theorem assembleLine_rdks {digits : List Char} {slot : Nat} (hw : IsWord digits)
    (value : decimalValue 0 digits = some slot) :
    assembleLine (['r', 'd', 'k', 's'] ++ ' ' :: digits) =
      if slot ≤ 19 then .issue (0x00000006#32 ||| (BitVec.ofNat 32 slot <<< 8)) 0 else .refused := by
  have form : assembleWords [['r', 'd', 'k', 's'], digits] = assembleRdks digits := rfl
  rw [assembleLine_operand ⟨by decide, rfl⟩ hw, form, ← assembleInstr_rdks]
  cases digits with
  | nil => exact absurd rfl hw.nonempty
  | cons c rest => simp only [assembleRdks, value]

/-- `rdks` with a slot of one digit. -/
theorem assembleLine_rdks_one {slot : Nat} (small : slot < 10) :
    assembleLine ['r', 'd', 'k', 's', ' ', hexDigit slot] =
      .issue (0x00000006#32 ||| (BitVec.ofNat 32 slot <<< 8)) 0 := by
  have value : decimalValue 0 [hexDigit slot] = some slot := by
    rw [decimalValue_hexDigit_cons 0 small, decimalValue, Nat.mul_zero, Nat.zero_add]
  have line := assembleLine_rdks ⟨List.cons_ne_nil _ _, isPlain_hexDigit (by omega)⟩ value
  rwa [if_pos (by omega)] at line

/-- `rdks` with a slot of two digits. -/
theorem assembleLine_rdks_two {slot : Nat} (small : slot < 100) :
    assembleLine (['r', 'd', 'k', 's', ' '] ++ [hexDigit (slot / 10), hexDigit (slot % 10)]) =
      if slot ≤ 19 then .issue (0x00000006#32 ||| (BitVec.ofNat 32 slot <<< 8)) 0 else .refused := by
  have value : decimalValue 0 [hexDigit (slot / 10), hexDigit (slot % 10)] = some slot := by
    rw [decimalValue_hexDigit_cons 0 (by omega), decimalValue_hexDigit_cons _ (by omega), decimalValue, Nat.mul_zero,
      Nat.zero_add, Nat.div_add_mod]
  have tens := isPlain_hexDigit (n := slot / 10) (by omega)
  have units := isPlain_hexDigit (n := slot % 10) (by omega)
  exact assembleLine_rdks ⟨List.cons_ne_nil _ _, isPlain_append (text := [hexDigit (slot / 10)]) tens units⟩ value

/-- `.word` with its eight digits. -/
theorem assembleLine_word (b3 b2 b1 b0 : Byte) :
    assembleLine (['.', 'w', 'o', 'r', 'd'] ++ ' ' :: [b3, b2, b1, b0].flatMap hexOfByte) =
      .issue (b3 ++ b2 ++ b1 ++ b0) 0 := by
  have form (a : List Char) : assembleWords [['.', 'w', 'o', 'r', 'd'], a] = assembleRaw (cmdOfHex a) (some 0) := rfl
  rw [assembleLine_operand ⟨by decide, rfl⟩ (isWord_flatMap_hexOfByte _ _), form, cmdOfHex_flatMap_hexOfByte, assembleRaw]

/-- `.word` with its eight digits and a DIN. -/
theorem assembleLine_word_din (b3 b2 b1 b0 : Byte) (din : Block) :
    assembleLine (['.', 'w', 'o', 'r', 'd'] ++ ' ' :: ([b3, b2, b1, b0].flatMap hexOfByte ++ ' ' :: hexOfBlock din)) =
      .issue (b3 ++ b2 ++ b1 ++ b0) din := by
  have directive : IsWord ['.', 'w', 'o', 'r', 'd'] := ⟨by decide, rfl⟩
  have form (a b : List Char) :
    assembleWords [['.', 'w', 'o', 'r', 'd'], a, b] = assembleRaw (cmdOfHex a) (blockOfHex b) := rfl
  rw [assembleLine_eq, directive.lineWords_append_space, (isWord_flatMap_hexOfByte _ _).lineWords_append_space,
    (isWord_hexOfBlock din).lineWords_eq, form, cmdOfHex_flatMap_hexOfByte, blockOfHex_hexOfBlock, assembleRaw]

/-- Settles O59: the forms of a line, one by one. -/
theorem assemblerGivesTheCommandWords : Obligations.AssemblerGivesTheCommandWords := by
  intro b
  refine ⟨blockOfHex_hexOfBlock b, rfl, ?_, rfl, ?_, ?_, ?_, fun _ => assembleLine_rdks_one,
    fun _ _ => assembleLine_rdks_two,
    fun b3 b2 b1 b0 => ⟨assembleLine_word b3 b2 b1 b0, assembleLine_word_din b3 b2 b1 b0 b⟩⟩
  · exact assembleLine_block (mnemonic := ['k', 'e', 'x', 'p']) ⟨by decide, rfl⟩ (fun _ => rfl) b
  · exact assembleLine_block (mnemonic := ['k', 'f', 'u', 'l', 'l']) ⟨by decide, rfl⟩ (fun _ => rfl) b
  · exact assembleLine_block (mnemonic := ['e', 'n', 'c']) ⟨by decide, rfl⟩ (fun _ => rfl) b
  · exact assembleLine_block (mnemonic := ['d', 'e', 'c']) ⟨by decide, rfl⟩ (fun _ => rfl) b

end Sys2Proof.Machine
end

section
/-! SUPPORT. The field of the core (spec/40_primitives.md R70 to R74): `gmul` is the reduced product of polynomials and a
commutative, associative product with inverses; and the S-box bit by bit. -/

namespace Sys2Proof.Machine

/-! ### Sums selected by the bits of a byte -/

/-- The sum of the terms that the bits of `b` select. -/
def bitSum {n : Nat} (b : Byte) (term : Nat → BitVec n) : BitVec n :=
  [0, 1, 2, 3, 4, 5, 6, 7].foldl (fun r k => if b.getLsbD k then r ^^^ term k else r) 0

/-- The product of the field is such a sum (R72). -/
theorem gmul_eq_bitSum (a b : Byte) : gmul a b = bitSum b fun k => xtimeIter k a := rfl

/-- The unreduced product is such a sum (R70). -/
theorem polyProduct_eq_bitSum (a b : Byte) : polyProduct a b = bitSum b fun k => a.setWidth 16 <<< k := rfl

/-- Such a sum depends on the terms of the eight bits alone. -/
theorem bitSum_congr {n : Nat} (b : Byte) {term term' : Nat → BitVec n} (h : ∀ k, k < 8 → term k = term' k) :
    bitSum b term = bitSum b term' := by
  simp [bitSum, h]

/-- The map is linear over GF(2). -/
def Linear {m n : Nat} (f : BitVec m → BitVec n) : Prop := ∀ x y, f (x ^^^ y) = f x ^^^ f y

/-- A linear map fixes zero. -/
theorem Linear.map_zero {m n : Nat} {f : BitVec m → BitVec n} (hf : Linear f) : f 0 = 0 := by
  have double : f (0 ^^^ 0) = f 0 ^^^ f 0 := hf 0 0
  rwa [BitVec.xor_self, BitVec.xor_self] at double

/-- A linear map goes inside a sum. -/
theorem Linear.map_bitSum {m n : Nat} {f : BitVec m → BitVec n} (hf : Linear f) (b : Byte) (term : Nat → BitVec m) :
    f (bitSum b term) = bitSum b fun k => f (term k) := by
  have add (r : BitVec m) (k : Nat) : (if b.getLsbD k then f r ^^^ f (term k) else f r) =
      f (if b.getLsbD k then r ^^^ term k else r) := by
    rw [← hf]
    exact (apply_ite f _ _ _).symm
  rw [bitSum, bitSum, ← hf.map_zero]
  exact Eq.symm (List.foldl_hom f add)

/-- Adding `c` where a bit is set is linear in the value and the bit together. -/
theorem ite_xor_xor {n : Nat} (p q : Bool) (x y c : BitVec n) :
    (if (p ^^ q) then x ^^^ y ^^^ c else x ^^^ y) = (if p then x ^^^ c else x) ^^^ (if q then y ^^^ c else y) := by
  cases p <;> cases q
  case true.true =>
    calc x ^^^ y = x ^^^ y ^^^ (c ^^^ c) := by rw [BitVec.xor_self, BitVec.xor_zero]
      _ = x ^^^ c ^^^ (y ^^^ c) := by ac_rfl
  case true.false =>
    change x ^^^ y ^^^ c = x ^^^ c ^^^ y
    ac_rfl
  case false.true => exact BitVec.xor_assoc x y c
  case false.false => rfl

/-! ### The product is commutative and associative -/

/-- Multiplication by x shifts up, and reduces where the top bit was set (R71). -/
theorem xtime_eq_ite (a : Byte) : xtime a = if a.getLsbD 7 then a <<< 1 ^^^ 0x1B#8 else a <<< 1 := by
  unfold xtime
  split
  · rfl
  · exact BitVec.xor_zero

/-- Multiplication by x is linear (R71). -/
theorem linear_xtime : Linear xtime := by
  intro x y
  rw [xtime_eq_ite, xtime_eq_ite, xtime_eq_ite, BitVec.shiftLeft_xor_distrib, BitVec.getLsbD_xor, ite_xor_xor]

/-- Multiplication by a power of x commutes with multiplication by x. -/
theorem xtimeIter_xtime (k : Nat) (a : Byte) : xtimeIter k (xtime a) = xtime (xtimeIter k a) := by
  induction k with
  | zero => rfl
  | succ k ih => rw [xtimeIter, ih, xtimeIter]

/-- A linear map that commutes with multiplication by x commutes with multiplication by any byte. -/
theorem Linear.map_gmul {f : Byte → Byte} (hf : Linear f) (hx : ∀ a, f (xtime a) = xtime (f a)) (a b : Byte) :
    f (gmul a b) = gmul (f a) b := by
  have powers (k : Nat) : f (xtimeIter k a) = xtimeIter k (f a) := by
    induction k with
    | zero => rfl
    | succ k ih => rw [xtimeIter, hx, ih, xtimeIter]
  simp only [gmul_eq_bitSum, hf.map_bitSum, powers]

/-- Multiplication by x of a product. -/
theorem xtime_gmul (a b : Byte) : xtime (gmul a b) = gmul (xtime a) b := linear_xtime.map_gmul (fun _ => rfl) a b

/-- Multiplication by a power of x is linear. -/
theorem linear_xtimeIter (k : Nat) : Linear (xtimeIter k) := by
  induction k with
  | zero => exact fun _ _ => rfl
  | succ k ih => exact fun x y => by simp only [xtimeIter, ih x y, linear_xtime _ _]

/-- `gmul` is linear in its first operand. -/
theorem linear_gmul_left (c : Byte) : Linear fun a => gmul a c := by
  intro x y
  have terms : gmulTerm (x ^^^ y) c = fun k => gmulTerm x c k ^^^ gmulTerm y c k := by
    funext k
    unfold gmulTerm
    split
    · exact linear_xtimeIter k x y
    · rfl
  simpa [gmul_eq_sum_gmulTerm, terms] using
    foldl_xor_map_xor (gmulTerm x c) (gmulTerm y c) (List.range 8) 0x00#8 0x00#8

/-- Two factors on the right change places. -/
theorem gmul_right_comm (a b c : Byte) : gmul (gmul a b) c = gmul (gmul a c) b :=
  (linear_gmul_left c).map_gmul (fun x => (xtime_gmul x c).symm) a b

/-- `gmul` is commutative (R70). -/
theorem gmul_comm (a b : Byte) : gmul a b = gmul b a := by
  simpa only [gmul_one_left] using gmul_right_comm 0x01#8 a b

/-- `gmul` is associative (R70). -/
theorem gmul_assoc (a b c : Byte) : gmul (gmul a b) c = gmul a (gmul b c) := by
  rw [gmul_comm a b, gmul_right_comm b a c, gmul_comm _ a]

/-- `gmul` distributes over XOR on the right as well (R70). -/
theorem xor_gmul (a b c : Byte) : gmul (a ^^^ b) c = gmul a c ^^^ gmul b c := linear_gmul_left c a b

/-- Zero times a byte. -/
@[simp] theorem gmul_zero_left (b : Byte) : gmul 0x00#8 b = 0x00#8 := (linear_gmul_left b).map_zero

/-- 0x01 is the unit on the right. -/
@[simp] theorem gmul_one_right (a : Byte) : gmul a 0x01#8 = a := by rw [gmul_comm, gmul_one_left]

/-! ### The product is that of polynomials -/

/-- One step of the reduction: the polynomial less the multiple of m(x) that clears its coefficient `d` (R70). -/
def reduceDegree (p : BitVec 16) (d : Nat) : BitVec 16 :=
  if p.getLsbD d then p ^^^ (0x011B#16 <<< (d - 8)) else p

/-- The reduction is its steps, the highest degree first. -/
theorem polyReduce_eq_foldl (p : BitVec 16) :
    polyReduce p = ([14, 13, 12, 11, 10, 9, 8].foldl reduceDegree p).setWidth 8 := rfl

/-- A step of the reduction is linear. -/
theorem linear_reduceDegree (d : Nat) : Linear fun p => reduceDegree p d := by
  intro p q
  simp only [reduceDegree, BitVec.getLsbD_xor, ite_xor_xor]

/-- So are several steps. -/
theorem linear_foldl_reduceDegree (ds : List Nat) : Linear fun p => ds.foldl reduceDegree p := by
  induction ds with
  | nil => exact fun _ _ => rfl
  | cons d ds ih =>
    intro p q
    simp only [List.foldl_cons, linear_reduceDegree d p q]
    exact ih _ _

/-- The reduction is linear. -/
theorem linear_polyReduce : Linear polyReduce := by
  intro p q
  simp only [polyReduce_eq_foldl, linear_foldl_reduceDegree _ p q, BitVec.setWidth_xor]

/-- A byte is the sum of the powers of x that its bits select, so linear maps that agree on those powers are equal. -/
theorem Linear.ext {n : Nat} {f g : Byte → BitVec n} (hf : Linear f) (hg : Linear g)
    (h : ∀ k, k < 8 → f (xtimeIter k 0x01#8) = g (xtimeIter k 0x01#8)) (a : Byte) : f a = g a := by
  rw [← gmul_one_left a, gmul_eq_bitSum, hf.map_bitSum, hg.map_bitSum, bitSum_congr a h]

/-- Reducing a byte shifted up is multiplying it by the power of x (R71, R72): both are linear, and agree on the powers. -/
theorem polyReduce_shift (a : Byte) {k : Nat} (hk : k < 8) : polyReduce (a.setWidth 16 <<< k) = xtimeIter k a := by
  have powers : ∀ k < 8, ∀ j < 8,
      polyReduce ((xtimeIter j 0x01#8).setWidth 16 <<< k) = xtimeIter k (xtimeIter j 0x01#8) := by decide +kernel
  have linear : Linear fun a : Byte => polyReduce (a.setWidth 16 <<< k) := fun x y => by
    simp only [BitVec.setWidth_xor, BitVec.shiftLeft_xor_distrib, linear_polyReduce _ _]
  exact linear.ext (linear_xtimeIter k) (powers k hk) a

/-- `gmul` is the product of the polynomials, reduced (R70). -/
theorem gmul_eq_polyReduce (a b : Byte) : gmul a b = polyReduce (polyProduct a b) := by
  rw [polyProduct_eq_bitSum, linear_polyReduce.map_bitSum, gmul_eq_bitSum]
  exact bitSum_congr b fun k hk => (polyReduce_shift a hk).symm

/-- Settles O53: reduction is linear and takes shifts to powers of x, and the laws are those of linear maps that commute
with multiplication by x. -/
theorem gmulIsPolynomialMultiplication : Obligations.GmulIsPolynomialMultiplication := fun a b c =>
  ⟨gmul_eq_polyReduce a b, gmul_comm a b, (gmul_assoc a b c).symm, gmul_xor a b c⟩

/-! ### Inverses -/

/-- The power `ginv` computes is an inverse of every byte but zero (R73). -/
theorem gmul_ginv : ∀ a : Byte, a ≠ 0x00#8 → gmul a (ginv a) = 0x01#8 := by decide +kernel

/-- Settles O52: in an associative product an inverse on both sides is unique. -/
theorem ginvIsTheUniqueInverse : Obligations.GinvIsTheUniqueInverse := by
  refine ⟨by decide +kernel, fun a y ha => ⟨fun inverse => ?_, fun h => h ▸ gmul_ginv a ha⟩⟩
  calc y = gmul (gmul a (ginv a)) y := by rw [gmul_ginv a ha, gmul_one_left]
    _ = gmul (gmul a y) (ginv a) := gmul_right_comm a (ginv a) y
    _ = ginv a := by rw [inverse, gmul_one_left]

/-! ### The S-box -/

/-- A rotation to the right, bit by bit. -/
theorem getLsbD_rotateRight_mod {n r i : Nat} (w : BitVec n) (hr : r < n) (hi : i < n) :
    (w.rotateRight r).getLsbD i = w.getLsbD ((i + r) % n) := by
  rw [BitVec.getLsbD_rotateRight, Nat.mod_eq_of_lt hr]
  by_cases low : i < n - r
  · rw [decide_eq_true low, cond_true, Nat.mod_eq_of_lt (by omega), Nat.add_comm]
  · rw [decide_eq_false low, cond_false, decide_eq_true hi, Bool.true_and, Nat.mod_eq_sub_mod (by omega),
      Nat.mod_eq_of_lt (by omega), show i - (n - r) = i + r - n by omega]

/-- The affine map, bit by bit (R74). -/
theorem getLsbD_affine (b : Byte) (i : Nat) (hi : i < 8) : (affine b).getLsbD i =
    (b.getLsbD i ^^ b.getLsbD ((i + 4) % 8) ^^ b.getLsbD ((i + 5) % 8) ^^ b.getLsbD ((i + 6) % 8) ^^
      b.getLsbD ((i + 7) % 8) ^^ (0x63#8).getLsbD i) := by
  simp only [affine, BitVec.getLsbD_xor, getLsbD_rotateRight_mod b (by decide : 4 < 8) hi,
    getLsbD_rotateRight_mod b (by decide : 5 < 8) hi, getLsbD_rotateRight_mod b (by decide : 6 < 8) hi,
    getLsbD_rotateRight_mod b (by decide : 7 < 8) hi]

/-- InvSbox inverts Sbox (R74). -/
@[simp] theorem invSbox_sbox : ∀ a : Byte, invSbox (sbox a) = a := by decide +kernel

/-- Sbox inverts InvSbox (R74). -/
@[simp] theorem sbox_invSbox : ∀ a : Byte, sbox (invSbox a) = a := by decide +kernel

/-- Sbox has no fixed point and no opposite fixed point (R74). -/
theorem sbox_ne : ∀ a : Byte, sbox a ≠ a ∧ sbox a ≠ a ^^^ 0xff#8 := by decide +kernel

/-- Settles O51: the table is the formula, whose bits are those of the affine map. -/
theorem sboxIsAffineOfTheInverse : Obligations.SboxIsAffineOfTheInverse := by
  intro a
  obtain ⟨fixed, opposite⟩ := sbox_ne a
  refine ⟨fun i => ?_, invSbox_sbox a, sbox_invSbox a, fixed, opposite, by decide⟩
  rw [sbox_eq_sboxFormula, sboxFormula, getLsbD_affine _ _ i.isLt]

end Sys2Proof.Machine
end

section
/-! SUPPORT. The laws of the transforms (spec/40_primitives.md R77 to R93): the row moves and the byte substitutions invert
one another, and so do the column matrices, whose products are the unit matrix. -/

namespace Sys2Proof.Machine

/-! ### Bytes moved and substituted -/

/-- A byte of a byte permutation. -/
theorem byteOf_permuteBytes (source : List Nat) (b : Block) {i : Nat} (hi : i < 16) :
    byteOf (permuteBytes source b) i = byteOf b (source.getD i 0) := byteOf_blockOf _ i hi

/-- Two byte permutations undo one another when their composition takes each byte from its own place. -/
theorem permuteBytes_inverse {source source' : List Nat}
    (h : ∀ i, i < 16 → source'.getD i 0 < 16 ∧ source.getD (source'.getD i 0) 0 = i) (b : Block) :
    permuteBytes source' (permuteBytes source b) = b := by
  apply block_ext
  intro i hi
  obtain ⟨inBlock, back⟩ := h i hi
  rw [byteOf_permuteBytes _ _ hi, byteOf_permuteBytes _ _ inBlock, back]

/-- InvShiftRows inverts ShiftRows (R93). -/
theorem invShiftRows_shiftRows (b : Block) : invShiftRows (shiftRows b) = b := permuteBytes_inverse (by decide) b

/-- ShiftRows inverts InvShiftRows (R93). -/
theorem shiftRows_invShiftRows (b : Block) : shiftRows (invShiftRows b) = b := permuteBytes_inverse (by decide) b

/-- InvSubBytes inverts SubBytes (R77). -/
theorem invSubBytes_subBytes (b : Block) : invSubBytes (subBytes b) = b :=
  block_ext fun i hi => by simp [invSubBytes, subBytes, hi]

/-- SubBytes inverts InvSubBytes (R77). -/
theorem subBytes_invSubBytes (b : Block) : subBytes (invSubBytes b) = b :=
  block_ext fun i hi => by simp [invSubBytes, subBytes, hi]

/-- An entry of a Block built from a matrix (00_scope.md R11). -/
theorem matrixEntry_blockOfMatrix (m : Nat → Nat → Byte) {r c : Nat} (hr : r < 4) (hc : c < 4) :
    matrixEntry (blockOfMatrix m) r c = m r c := by
  rw [matrixEntry, byteOf_blockOfMatrix _ _ (by omega), show (r + 4 * c) % 4 = r by omega,
    show (r + 4 * c) / 4 = c by omega]

/-- Two Blocks with the same state matrix are equal. -/
theorem matrix_ext {a b : Block} (h : ∀ r c, r < 4 → c < 4 → matrixEntry a r c = matrixEntry b r c) : a = b :=
  block_ext fun i hi => by
    simpa only [matrixEntry, Nat.mod_add_div] using h (i % 4) (i / 4) (by omega) (by omega)

/-- ShiftRows on the state matrix (R78). -/
theorem matrixEntry_shiftRows (b : Block) {r c : Nat} (hr : r < 4) (hc : c < 4) :
    matrixEntry (shiftRows b) r c = matrixEntry b r ((c + r) % 4) := by
  rw [← refShiftRows_eq, refShiftRows, matrixEntry_blockOfMatrix _ hr hc]

/-- InvShiftRows on the state matrix (R79). -/
theorem matrixEntry_invShiftRows (b : Block) {r c : Nat} (hr : r < 4) (hc : c < 4) :
    matrixEntry (invShiftRows b) r ((c + r) % 4) = matrixEntry b r c := by
  rw [← matrixEntry_shiftRows _ hr hc, shiftRows_invShiftRows]

/-- Settles O50: the row rotations and the byte permutations. -/
theorem rowsRotateByTheirIndex : Obligations.RowsRotateByTheirIndex := fun b _ _ hr hc =>
  ⟨matrixEntry_shiftRows b hr hc, matrixEntry_invShiftRows b hr hc, byteOf_permuteBytes _ b (by omega),
    byteOf_permuteBytes _ b (by omega), invShiftRows_shiftRows b⟩

/-! ### Columns mixed -/

/-- Entry `c` of row `r` of a list of rows. -/
def coefficient (rows : List (List Byte)) (r c : Nat) : Byte := (rows.getD r []).getD c 0

/-- The product over GF(2^8) of row `r` of `rows` and the column `x`. -/
def rowTimes (rows : List (List Byte)) (r : Nat) (x : Nat → Byte) : Byte :=
  gmul (coefficient rows r 0) (x 0) ^^^ gmul (coefficient rows r 1) (x 1) ^^^ gmul (coefficient rows r 2) (x 2) ^^^
    gmul (coefficient rows r 3) (x 3)

/-- An entry of a matrix times the state. -/
theorem matrixEntry_matrixTimes (rows : List (List Byte)) (b : Block) {r c : Nat} (hr : r < 4) (hc : c < 4) :
    matrixEntry (matrixTimes rows b) r c = rowTimes rows r fun k => matrixEntry b k c := by
  rw [matrixTimes, matrixEntry_blockOfMatrix _ hr hc]
  rfl

/-- The product of two row lists, row `r` and column `c`. -/
def productEntry (rows rows' : List (List Byte)) (r c : Nat) : Byte := rowTimes rows r fun k => coefficient rows' k c

/-- A row times a matrix times a column, the matrix and the row multiplied first. -/
theorem rowTimes_rowTimes (rows rows' : List (List Byte)) (r : Nat) (x : Nat → Byte) :
    rowTimes rows r (fun k => rowTimes rows' k x) =
      gmul (productEntry rows rows' r 0) (x 0) ^^^ gmul (productEntry rows rows' r 1) (x 1) ^^^
        gmul (productEntry rows rows' r 2) (x 2) ^^^ gmul (productEntry rows rows' r 3) (x 3) := by
  simp only [productEntry, rowTimes, gmul_xor, xor_gmul, gmul_assoc]
  ac_rfl

/-- Two matrices whose product is the unit matrix undo one another on the state. -/
theorem matrixTimes_inverse {rows rows' : List (List Byte)}
    (h : ∀ r < 4, ∀ c < 4, productEntry rows rows' r c = if r = c then 0x01#8 else 0x00#8) (b : Block) :
    matrixTimes rows (matrixTimes rows' b) = b := by
  apply matrix_ext
  intro r c hr hc
  have inner : rowTimes rows r (fun k => matrixEntry (matrixTimes rows' b) k c) =
      rowTimes rows r fun k => rowTimes rows' k fun j => matrixEntry b j c := by
    simp only [rowTimes, matrixEntry_matrixTimes, hc, Nat.reduceLT]
  rw [matrixEntry_matrixTimes _ _ hr hc, inner, rowTimes_rowTimes, h r hr 0 (by decide), h r hr 1 (by decide),
    h r hr 2 (by decide), h r hr 3 (by decide)]
  interval_cases r <;> simp

/-- InvMixColumns inverts MixColumns (R93). -/
theorem invMixColumns_mixColumns (b : Block) : invMixColumns (mixColumns b) = b := by
  rw [invMixColumns_eq_matrixTimes, mixColumns_eq_matrixTimes, matrixTimes_inverse (by decide +kernel)]

/-- MixColumns inverts InvMixColumns (R93). -/
theorem mixColumns_invMixColumns (b : Block) : mixColumns (invMixColumns b) = b := by
  rw [invMixColumns_eq_matrixTimes, mixColumns_eq_matrixTimes, matrixTimes_inverse (by decide +kernel)]

/-- The inverse of one full forward round (R93). -/
theorem inverse_encRound (b k : Block) : invSubBytes (invShiftRows (invMixColumns (encRound b k ^^^ k))) = b := by
  rw [encRound, addRoundKey, BitVec.xor_assoc, BitVec.xor_self, BitVec.xor_zero, invMixColumns_mixColumns,
    invShiftRows_shiftRows, invSubBytes_subBytes]

/-- One full forward round of that inverse (R93). -/
theorem encRound_inverse (b k : Block) : encRound (invSubBytes (invShiftRows (invMixColumns (b ^^^ k)))) k = b := by
  rw [encRound, addRoundKey, subBytes_invSubBytes, shiftRows_invShiftRows, mixColumns_invMixColumns, BitVec.xor_assoc,
    BitVec.xor_self, BitVec.xor_zero]

/-- Settles O47: the inverse laws, the fixed columns evaluated, and the Block 0 with the key 1, whose forward round DecRound does
not undo. -/
theorem transformsInvertOneAnother : Obligations.TransformsInvertOneAnother := by
  refine ⟨fun a => ⟨invSbox_sbox a, sbox_invSbox a⟩,
    fun b => ⟨invShiftRows_shiftRows b, invMixColumns_mixColumns b, mixColumns_invMixColumns b,
      invSubBytes_invShiftRows b⟩,
    fun b k => ⟨inverse_encRound b k, encRound_inverse b k⟩, ?_, ?_, ?_, ?_, ?_, ?_, 0, 1, ?_⟩ <;> decide +kernel

/-- Settles O49: the matrices of the reference, linearity, and the values at zero and at the example column. -/
theorem columnMixingIsMatrixMultiplication : Obligations.ColumnMixingIsMatrixMultiplication := fun a b =>
  ⟨mixColumns_eq_matrixTimes b, invMixColumns_eq_matrixTimes b, invMixColumns_xor a b, by decide +kernel,
    by decide +kernel⟩

/-- Settles O48: un-mixing is linear. -/
theorem decRoundWithATransformedKey : Obligations.DecRoundWithATransformedKey := fun b k =>
  ⟨(invMixColumns_xor (invShiftRows (invSubBytes b)) k).symm, fun _ => rfl⟩

end Sys2Proof.Machine
end

section
/-! SUPPORT. The key-generation primitives (spec/40_primitives.md R87 to R92) and the equivalent inverse cipher
(spec/42_block_cipher.md R121). -/

namespace Sys2Proof.Machine

/-! ### The words of the key schedule -/

/-- A byte of a word rotated right by eight bits. -/
theorem wordByte_rotateRight_eight (w : Word) {i : Nat} (hi : i < 4) :
    wordByte (w.rotateRight 8) i = wordByte w ((i + 1) % 4) := by
  apply BitVec.eq_of_getLsbD_eq
  intro k hk
  have rotated := getLsbD_rotateRight_mod w (by decide : 8 < 32) (by omega : 8 * i + k < 32)
  simp [wordByte, hk, rotated, show (8 * i + k + 8) % 32 = 8 * ((i + 1) % 4) + k by omega]

/-- RotWord is that rotation (R87). -/
theorem rotWord_eq_rotateRight (w : Word) : rotWord w = w.rotateRight 8 := by
  apply word_ext <;> simp [rotWord, wordByte_rotateRight_eight]

/-- SubWord works bytewise (R88). -/
theorem wordByte_subWord (w : Word) {i : Nat} (hi : i < 4) : wordByte (subWord w) i = sbox (wordByte w i) := by
  interval_cases i <;> simp [subWord]

/-- Settles O55: RotWord is the rotation, byte by byte, and SubWord is bytewise. -/
theorem rotWordIsARotateRightByEight : Obligations.RotWordIsARotateRightByEight := fun w =>
  ⟨rotWord_eq_rotateRight w, rotWord_subWord w, fun i hi =>
    ⟨wordByte_subWord w hi, by rw [rotWord_eq_rotateRight, wordByte_rotateRight_eight w hi]⟩⟩

/-- Settles O54: the table evaluated, and the bytes of the constant's word. -/
theorem roundConstantsByXtime : Obligations.RoundConstantsByXtime :=
  ⟨rfl, rfl, by decide, fun i => wordByte_wordOfBytes (rcon i) 0x00 0x00 0x00⟩

/-- A word of a Block shifted up by `n` lanes. -/
theorem wordOf_shiftLeft (p : Block) (n : Nat) {j : Nat} (hj : j < 4) :
    wordOf (p <<< (32 * n)) j = if j < n then 0 else wordOf p (j - n) := by
  apply BitVec.eq_of_getLsbD_eq
  intro k hk
  rw [getLsbD_wordOf _ _ hk, BitVec.getLsbD_shiftLeft, decide_eq_true (by omega : 32 * j + k < 128), Bool.true_and]
  split
  case isTrue filled => simp [show 32 * j + k < 32 * n by omega]
  case isFalse moved =>
    rw [getLsbD_wordOf _ _ hk, show 32 * j + k - 32 * n = 32 * (j - n) + k by omega]
    simp [show ¬ 32 * j + k < 32 * n by omega]

/-- NextRoundKey as shifts of the port value (R91). -/
theorem nextRoundKey_eq_shifts (p : Block) (t : Word) :
    nextRoundKey p t = blockOfWords t t t t ^^^ p ^^^ (p <<< 32) ^^^ (p <<< 64) ^^^ (p <<< 96) := by
  have one (j : Nat) (hj : j < 4) := wordOf_shiftLeft p 1 hj
  have two (j : Nat) (hj : j < 4) := wordOf_shiftLeft p 2 hj
  have three (j : Nat) (hj : j < 4) := wordOf_shiftLeft p 3 hj
  apply block_ext_words <;> simp [nextRoundKey, one, two, three] <;> ac_rfl

/-- Settles O46: the words of `nextRoundKey`, and its shift form. -/
theorem nextRoundKeyAsShifts : Obligations.NextRoundKeyAsShifts := fun p t =>
  ⟨nextRoundKey_eq_shifts p t, wordOf_blockOfWords _ _ _ _⟩

/-- Settles O45: the four words of `wordOf_roundKey`. -/
theorem laneFormEqualsScalarRecurrence : Obligations.LaneFormEqualsScalarRecurrence := by
  intro key i j _ hj
  obtain ⟨w0, w1, w2, w3⟩ := wordOf_roundKey key i
  interval_cases j <;> assumption

/-! ### The equivalent inverse cipher -/

/-- Settles O44: slot `10 + j` holds the transformed round key `10 - j`, so `invCipher_eq_refInvCipher` applies. -/
theorem equivalentInverseIsTheTrueInverse : Obligations.EquivalentInverseIsTheTrueInverse := by
  intro key crypt ks forward inverse
  have forwardRef (i : Fin 20) (low : i.val ≤ 10) : ks[i] = refRoundKey key i.val :=
    (forward i low).trans (roundKey_eq_refRoundKey key i.val)
  refine invCipher_eq_refInvCipher crypt forwardRef fun ⟨i, inRange⟩ high => ?_
  obtain ⟨j, rfl⟩ : ∃ j, i = 10 + j := Nat.exists_eq_add_of_le (Nat.le_of_succ_le high)
  have bounds : 1 ≤ j ∧ j ≤ 9 := ⟨Nat.le_of_add_le_add_left (a := 10) high, by omega⟩
  have source : ks[10 - j] = refRoundKey key (10 - j) := forwardRef ⟨10 - j, by omega⟩ (Nat.sub_le 10 j)
  calc ks[10 + j] = invMixColumns ks[10 - j] := inverse j bounds
    _ = refInverseSlot key (10 + j) := by rw [source, refInverseSlot_eq, show 20 - (10 + j) = 10 - j by omega]

end Sys2Proof.Machine
end

section
/-! SUPPORT. The commands of the key expander (spec/41_key_expansion.md R102 to R106): what each leaves in the 20 slots, the
flags and the rest of the state, and which slots decide which. -/

namespace Sys2Proof.Machine

/-! ### What a builder leaves -/

/-- The commands that build a half of the schedule leave DOUT (10_state.md R31). -/
theorem OkEffect.builder_dout {i : Instr} {s u : State} (h : OkEffect i s u)
    (builder : i = .kext ∨ ∃ key, i = .kexp key ∨ i = .kfull key) : u.dout = s.dout := by
  rcases builder with rfl | ⟨key, rfl | rfl⟩
  · obtain ⟨-, rfl⟩ := h
    simp
  all_goals
    obtain rfl : u = _ := h
    simp

/-- A builder that ends with OK leaves ERR, DOUT and the port, and answers. -/
theorem OkEffect.builder_ends {i : Instr} {s u : State} (h : OkEffect i s u)
    (builder : i = .kext ∨ ∃ key, i = .kexp key ∨ i = .kfull key) :
    exec i s = .next (respond .ok u) ∧ (respond .ok u).err = s.err ∧ (respond .ok u).dout = s.dout ∧
      Answered .ok s (respond .ok u) ∧ SamePort s (respond .ok u) := by
  obtain ⟨err, pending, responses, draws⟩ := h.frame
  exact ⟨exec_of_okEffect h, err, h.builder_dout builder, respond_answered responses, pending, draws⟩

/-- The transformed keys KEXT writes, in the numbering of 41_key_expansion.md R103. -/
theorem OkEffect.kext_inverse_slots {s u : State} (h : OkEffect .kext s u) (j : Nat) (hj : 1 ≤ j ∧ j ≤ 9) :
    u.ks[10 + j] = invMixColumns s.ks[10 - j] := by
  obtain ⟨-, high⟩ := h.kext_slots
  simpa only [show 20 - (10 + j) = 10 - j by omega] using high (10 + j) (by omega)

/-- The slots KFULL leaves (41_key_expansion.md R104): those of KEXP, and of KEXT after it. -/
theorem OkEffect.kfull_slots {key : Block} {s u : State} (h : OkEffect (.kfull key) s u) :
    (∀ n, ∀ _ : n ≤ 10, u.ks[n] = roundKey key n) ∧
      ∀ j, ∀ _ : 1 ≤ j ∧ j ≤ 9, u.ks[10 + j] = invMixColumns (roundKey key (10 - j)) := by
  obtain ⟨v, expand, extend⟩ := h.kfull_eq_kexp_kext
  obtain ⟨low, -⟩ := extend.kext_slots
  exact ⟨fun n hn => (low n hn).trans (expand.kexp_slots n hn),
    fun j hj => by rw [extend.kext_inverse_slots j hj, expand.kexp_slots (10 - j) (Nat.sub_le 10 j)]⟩

/-- Settles O15: the effect of KEXP, with the slots it writes by `OkEffect.kexp_slots` and those it leaves by
`OkEffect.unwritten`. -/
theorem kexpBuildsTheForwardHalf : Obligations.KexpBuildsTheForwardHalf := by
  intro key s
  obtain ⟨u, effect⟩ : ∃ u, OkEffect (.kexp key) s u := ⟨_, rfl⟩
  obtain ⟨ends, err, dout, answered, port⟩ := effect.builder_ends (.inr ⟨key, .inl rfl⟩)
  obtain ⟨fwd, inv⟩ := effect.validFlags
  have stale : u.invValid = false := by simp [← Bool.not_eq_true, inv]
  refine ⟨rfl, malformed_words_fail 1, _, ends, fun i => ?_, fwd.mpr (.inr ⟨key, .inl rfl⟩), stale, err, dout,
    answered, port⟩
  split
  case isTrue low => exact effect.kexp_slots i.val low
  case isFalse high => exact effect.unwritten i high

/-- Settles O16: with FWD_VALID the effect of KEXT, without it the failure with NOT_BUILT. -/
theorem kextBuildsTheInverseHalf : Obligations.KextBuildsTheInverseHalf := by
  intro s
  refine ⟨rfl, malformed_words_fail 2, fun built => ?_, fun unbuilt => ?_⟩
  · obtain ⟨u, effect⟩ : ∃ u, OkEffect .kext s u := ⟨_, built, rfl⟩
    obtain ⟨ends, err, dout, answered, port⟩ := effect.builder_ends (.inl rfl)
    obtain ⟨fwd, inv⟩ := effect.validFlags
    obtain ⟨low, -⟩ := effect.kext_slots
    exact ⟨_, ends, fun i hi => low i.val hi, effect.kext_inverse_slots, fwd.mpr (.inl built),
      inv.mpr (.inr (.inl ⟨rfl, built⟩)), err, dout, answered, port⟩
  · exact ⟨_, exec_of_needsUnbuiltHalf (i := .kext) unbuilt, raiseError_failed .notBuilt s⟩

/-- Settles O17: the effect of KFULL, with its slots by `OkEffect.kfull_slots`. -/
theorem kfullBuildsBothHalves : Obligations.KfullBuildsBothHalves := by
  intro key s
  obtain ⟨u, effect⟩ : ∃ u, OkEffect (.kfull key) s u := ⟨_, rfl⟩
  obtain ⟨ends, err, dout, answered, port⟩ := effect.builder_ends (.inr ⟨key, .inr rfl⟩)
  obtain ⟨fwd, inv⟩ := effect.validFlags
  obtain ⟨low, high⟩ := effect.kfull_slots
  exact ⟨rfl, malformed_words_fail 3, _, ends, fun i hi => low i.val hi, high,
    fwd.mpr (.inr ⟨key, .inr rfl⟩), inv.mpr (.inl ⟨key, rfl⟩), err, dout, answered, port⟩

/-! ### Which slots decide which -/

/-- A command answered with OK had its effect. -/
theorem okEffect_of_answered {i : Instr} {s t : State} (h : exec i s = .next t) (ok : Answered .ok s t) :
    ∃ u, t = respond .ok u ∧ OkEffect i s u := by
  rcases exec_cases h with effect | ⟨rfl, -⟩ | ⟨rfl, -⟩
  · exact effect
  · exact nomatch ok.code_unique (raiseError_failed .notBuilt s).answered
  · exact nomatch ok.code_unique (raiseError_failed .slotRange s).answered

/-- KEXT over a schedule whose inverse half is built writes the slots it finds (41_key_expansion.md R103 (a)). -/
theorem OkEffect.kext_rewrites {s u : State} (h : OkEffect .kext s u) (hs : ScheduleInv s) (built : s.invValid = true) :
    u.ks = s.ks := by
  obtain ⟨low, -⟩ := h.kext_slots
  refine slots_ext fun ⟨n, inRange⟩ => ?_
  by_cases inForward : n ≤ 10
  · exact low n inForward
  · obtain ⟨j, rfl⟩ : ∃ j, n = 10 + j := Nat.exists_eq_add_of_le (by omega)
    have bounds : 1 ≤ j ∧ j ≤ 9 := by omega
    calc u.ks[10 + j] = invMixColumns s.ks[10 - j] := h.kext_inverse_slots j bounds
      _ = s.ks[10 + j] := (hs.inverse built j bounds).symm

/-- Settles O38: by the invariant KEXT does not fail, and writes the slots and the flag that are there. -/
theorem secondKextChangesNoRegister : Obligations.SecondKextChangesNoRegister := by
  intro s t hs built h
  have fwd : s.fwdValid = true := hs.invNeedsFwd built
  obtain ⟨u, effect⟩ : ∃ u, OkEffect .kext s u := ⟨_, fwd, rfl⟩
  obtain ⟨ends, err, dout, answered, pending, draws⟩ := effect.builder_ends (.inl rfl)
  obtain ⟨fwd', inv'⟩ := effect.validFlags
  obtain rfl := next_inj (ends.symm.trans h)
  have sameFwd : u.fwdValid = s.fwdValid := (fwd'.mpr (.inl fwd)).trans fwd.symm
  have sameInv : u.invValid = s.invValid := (inv'.mpr (.inr (.inl ⟨rfl, fwd⟩))).trans built.symm
  exact ⟨state_ext (effect.kext_rewrites hs built) sameFwd sameInv err dout pending rfl draws, answered⟩

/-- After KEXT the inverse half is made of the forward half beside it (R103). -/
theorem OkEffect.kext_inverse {s u : State} (h : OkEffect .kext s u) (n : Nat) (hn : 11 ≤ n ∧ n < 20) :
    u.ks[n] = invMixColumns u.ks[20 - n] := by
  obtain ⟨low, high⟩ := h.kext_slots
  rw [high n hn, low (20 - n) (by omega)]

/-- After a successful KEXT or KFULL slots 11 to 19 are made of slots 1 to 9, by one function (41_key_expansion.md R106). -/
theorem inverse_of_exec {i : Instr} {s t : State} (extender : i = .kext ∨ ∃ key, i = .kfull key) (h : exec i s = .next t)
    (ok : Answered .ok s t) (n : Nat) (hn : 11 ≤ n ∧ n < 20) : t.ks[n] = invMixColumns t.ks[20 - n] := by
  obtain ⟨u, rfl, effect⟩ := okEffect_of_answered h ok
  rcases extender with rfl | ⟨key, rfl⟩
  · exact effect.kext_inverse n hn
  · obtain ⟨v, -, extend⟩ := effect.kfull_eq_kexp_kext
    exact extend.kext_inverse n hn

/-- Settles O40: slots 0 and 10 by the forward half of the key, slots 11 to 19 by `inverse_of_exec`. -/
theorem scheduleIsAFunctionOfTheKey : Obligations.ScheduleIsAFunctionOfTheKey := by
  refine ⟨fun key i i' s s' t t' hi hi' h h' => ?_, fun i i' s s' t t' hi hi' h h' ok ok' same n hn => ?_⟩
  · obtain ⟨-, forward⟩ := forwardOf_of_exec hi h
    obtain ⟨-, forward'⟩ := forwardOf_of_exec hi' h'
    exact ⟨forward key rfl 0 (by decide), (forward key rfl 10 (by decide)).trans (forward' key rfl 10 (by decide)).symm⟩
  · have source : t.ks[20 - n.val] = t'.ks[20 - n.val] := same ⟨20 - n.val, by omega⟩ (by simp only; omega)
    calc t.ks[n] = invMixColumns t.ks[20 - n.val] := inverse_of_exec hi h ok n.val ⟨hn, n.isLt⟩
      _ = invMixColumns t'.ks[20 - n.val] := by rw [source]
      _ = t'.ks[n] := (inverse_of_exec hi' h' ok' n.val ⟨hn, n.isLt⟩).symm

end Sys2Proof.Machine
end

section
/-! SUPPORT. The block cipher (spec/42_block_cipher.md R120 to R128): what ENC and DEC leave, and that the inverse rounds over
the transformed keys undo the forward rounds. -/

namespace Sys2Proof.Machine

/-! ### What ENC and DEC leave -/

/-- A command whose whole effect is a write of DOUT ends with OK and leaves the schedule, the flags and the port. -/
theorem OkEffect.writeDout_ends {i : Instr} {s : State} {v : Block} (h : OkEffect i s (writeDout s v)) :
    ∃ t, exec i s = .next t ∧ t.dout = v ∧ t.ks = s.ks ∧ t.fwdValid = s.fwdValid ∧ t.invValid = s.invValid ∧
      t.err = s.err ∧ Answered .ok s t ∧ SamePort s t :=
  ⟨_, exec_of_okEffect h, rfl, rfl, rfl, rfl, rfl, respond_answered rfl, rfl, rfl⟩

/-- A command that lacks a half changes only ERR and is answered NOT_BUILT. -/
theorem fails_of_needsUnbuiltHalf {i : Instr} {s : State} (h : needsUnbuiltHalf i s) :
    ∃ t, exec i s = .next t ∧ FailedWith .notBuilt s t :=
  ⟨_, exec_of_needsUnbuiltHalf h, raiseError_failed .notBuilt s⟩

/-- Settles O18: with FWD_VALID the effect of ENC, without it the failure with NOT_BUILT. -/
theorem encWritesTheCiphertext : Obligations.EncWritesTheCiphertext := fun plain _ =>
  ⟨rfl, malformed_words_fail 4, fun built => OkEffect.writeDout_ends (i := .enc plain) ⟨built, rfl⟩,
    fun unbuilt => fails_of_needsUnbuiltHalf (i := .enc plain) unbuilt⟩

/-- Settles O19: with INV_VALID the effect of DEC, without it the failure with NOT_BUILT. -/
theorem decWritesThePlaintext : Obligations.DecWritesThePlaintext := fun crypt _ =>
  ⟨rfl, malformed_words_fail 5, fun built => OkEffect.writeDout_ends (i := .dec crypt) ⟨built, rfl⟩,
    fun unbuilt => fails_of_needsUnbuiltHalf (i := .dec crypt) unbuilt⟩

/-! ### ENC and DEC repeated -/

/-- Whether a command lacks a half is read off the valid flags. -/
theorem needsUnbuiltHalf_congr {s t : State} (fwd : t.fwdValid = s.fwdValid) (inv : t.invValid = s.invValid)
    (i : Instr) : needsUnbuiltHalf i t ↔ needsUnbuiltHalf i s := by
  cases i <;> simp only [needsUnbuiltHalf, fwd, inv]

/-- ENC or DEC of a Block computes one function of the schedule: it writes the value to DOUT, or fails for want of a half
(R122, R123). -/
theorem exec_enc_dec_cases {i : Instr} {block : Block} (hi : i = .enc block ∨ i = .dec block) :
    ∃ value : Vector Block 20 → Block, ∀ {s t : State}, exec i s = .next t →
      (¬ needsUnbuiltHalf i s ∧ t = respond .ok (writeDout s (value s.ks))) ∨
        (needsUnbuiltHalf i s ∧ t = raiseError .notBuilt s) := by
  have effect_value : ∃ value : Vector Block 20 → Block, ∀ {s u : State}, OkEffect i s u →
      u = writeDout s (value s.ks) := by
    rcases hi with rfl | rfl
    · exact ⟨fun ks => cipher ks block, And.right⟩
    · exact ⟨fun ks => invCipher ks block, And.right⟩
  obtain ⟨value, write⟩ := effect_value
  refine ⟨value, fun h => ?_⟩
  rcases exec_cases h with ⟨u, rfl, effect⟩ | ⟨rfl, unbuilt⟩ | ⟨-, n, -, rfl⟩
  · exact .inl ⟨effect.not_needsUnbuiltHalf, congrArg (respond .ok) (write effect)⟩
  · exact .inr ⟨unbuilt, rfl⟩
  · rcases hi with hi | hi <;> cases hi

/-- Settles O41: both commands compute the same function of the same schedule, which the first leaves as it was. -/
theorem encAndDecAreRepeatable : Obligations.EncAndDecAreRepeatable := by
  intro i block s s' t t' hi h h'
  obtain ⟨value, ends⟩ := exec_enc_dec_cases hi
  have schedule : t.ks = s.ks ∧ t.fwdValid = s.fwdValid ∧ t.invValid = s.invValid := by
    rcases ends h with ⟨-, rfl⟩ | ⟨-, rfl⟩ <;> exact ⟨rfl, rfl, rfl⟩
  obtain ⟨ks, fwd, inv⟩ := schedule
  refine ⟨⟨ks, fwd, inv⟩, fun built built' same => ?_, ?_⟩
  · obtain ⟨-, rfl⟩ := (ends h).resolve_right fun failed => built failed.1
    obtain ⟨-, rfl⟩ := (ends h').resolve_right fun failed => built' failed.1
    exact congrArg value same
  · rintro rfl
    have lacks := needsUnbuiltHalf_congr fwd inv i
    rcases ends h with ⟨built, rfl⟩ | ⟨unbuilt, rfl⟩
    · obtain ⟨-, rfl⟩ := (ends h').resolve_right fun failed => built (lacks.mp failed.1)
      rfl
    · obtain ⟨-, rfl⟩ := (ends h').resolve_left fun ended => ended.1 (lacks.mpr unbuilt)
      rfl

/-! ### The inverse cipher inverts the cipher -/

/-- The byte substitution and the row move of a forward round come off again in an inverse round (R93). -/
theorem invShiftRows_invSubBytes_shiftRows_subBytes (b : Block) :
    invShiftRows (invSubBytes (shiftRows (subBytes b))) = b := by
  rw [← invSubBytes_invShiftRows, invShiftRows_shiftRows, invSubBytes_subBytes]

/-- Adding a round key twice changes nothing (R82). -/
@[simp] theorem addRoundKey_addRoundKey (b k : Block) : addRoundKey (addRoundKey b k) k = b := by
  rw [addRoundKey, addRoundKey, BitVec.xor_assoc, BitVec.xor_self, BitVec.xor_zero]

/-- A full inverse round with the transformed key undoes a full forward round with the key, from within the forward round
that follows to within this one: the substitution and the row move come off, then the key, as un-mixing is linear (R85). -/
theorem decRound_encRound (b k : Block) :
    decRound (shiftRows (subBytes (encRound b k))) (invMixColumns k) = shiftRows (subBytes b) := by
  calc decRound (shiftRows (subBytes (encRound b k))) (invMixColumns k)
      = invMixColumns (encRound b k ^^^ k) := by
        rw [decRound, invShiftRows_invSubBytes_shiftRows_subBytes, addRoundKey, ← invMixColumns_xor]
    _ = shiftRows (subBytes (invSubBytes (invShiftRows (invMixColumns (encRound b k ^^^ k))))) := by
        rw [subBytes_invSubBytes, shiftRows_invShiftRows]
    _ = shiftRows (subBytes b) := by rw [inverse_encRound]

/-- The full inverse rounds, over the transformed keys in reverse order, undo the full forward rounds (R121, R125). -/
theorem foldl_decRound_foldl_encRound (keys : List Block) (b : Block) :
    (keys.reverse.map invMixColumns).foldl decRound (shiftRows (subBytes (keys.foldl encRound b))) =
      shiftRows (subBytes b) := by
  induction keys generalizing b with
  | nil => rfl
  | cons k keys ih =>
    rw [List.reverse_cons, List.map_append, List.foldl_append, List.foldl_cons, ih]
    exact decRound_encRound b k

/-- InvCipher inverts Cipher over every schedule whose inverse half is made of the forward half (R126): the key of slot 10
comes off, then the full rounds, and the final inverse round with slot 0 takes off the rest. -/
theorem invCipher_cipher {ks : Vector Block 20}
    (inverse : ∀ j : Nat, ∀ _ : 1 ≤ j ∧ j ≤ 9, ks[10 + j] = invMixColumns ks[10 - j]) (plain : Block) :
    invCipher ks (cipher ks plain) = plain := by
  have keys : [ks[11], ks[12], ks[13], ks[14], ks[15], ks[16], ks[17], ks[18], ks[19]] =
      [ks[1], ks[2], ks[3], ks[4], ks[5], ks[6], ks[7], ks[8], ks[9]].reverse.map invMixColumns := by
    rw [inverse 1 (by decide), inverse 2 (by decide), inverse 3 (by decide), inverse 4 (by decide),
      inverse 5 (by decide), inverse 6 (by decide), inverse 7 (by decide), inverse 8 (by decide),
      inverse 9 (by decide)]
    rfl
  rw [invCipher, cipher, encLastRound, addRoundKey_addRoundKey, keys, foldl_decRound_foldl_encRound, decLastRound,
    invShiftRows_invSubBytes_shiftRows_subBytes, addRoundKey_addRoundKey]

/-- Settles O42: KFULL leaves both halves of the key's schedule, ENC leaves them to DEC, and InvCipher inverts Cipher over
them. -/
theorem decryptingTheCiphertextGivesThePlaintext : Obligations.DecryptingTheCiphertextGivesThePlaintext := by
  refine fun key plain => ⟨fun ks _ inverse => invCipher_cipher inverse plain, fun s => ?_⟩
  obtain ⟨u, effect⟩ : ∃ u, OkEffect (.kfull key) s u := ⟨_, rfl⟩
  obtain ⟨fwd, inv⟩ := effect.validFlags
  obtain ⟨low, high⟩ := effect.kfull_slots
  have enc : OkEffect (.enc plain) (respond .ok u) (writeDout (respond .ok u) (cipher u.ks plain)) :=
    ⟨fwd.mpr (.inr ⟨key, .inr rfl⟩), rfl⟩
  obtain ⟨v, encEnds, dout, ks, -, invValid, -⟩ := enc.writeDout_ends
  have dec : OkEffect (.dec v.dout) v (writeDout v (invCipher v.ks v.dout)) :=
    ⟨invValid.trans (inv.mpr (.inl ⟨key, rfl⟩)), rfl⟩
  obtain ⟨w, decEnds, plainBack, -⟩ := dec.writeDout_ends
  refine ⟨_, v, w, exec_of_okEffect effect, encEnds, decEnds, ?_⟩
  have inverse (j : Nat) (hj : 1 ≤ j ∧ j ≤ 9) : u.ks[10 + j] = invMixColumns u.ks[10 - j] := by
    rw [high j hj, low (10 - j) (Nat.sub_le 10 j)]
  calc w.dout = invCipher v.ks v.dout := plainBack
    _ = invCipher u.ks (cipher u.ks plain) := by rw [ks, dout]; rfl
    _ = plain := invCipher_cipher inverse plain

/-- Settles O43: the round keys are the reference's, so `cipher_eq_refCipher` applies. -/
theorem cipherIsFipsAes128 : Obligations.CipherIsFipsAes128 := fun key plain _ forward =>
  cipher_eq_refCipher plain fun i low => (forward i low).trans (roundKey_eq_refRoundKey key i.val)

end Sys2Proof.Machine
end

section
/-! SUPPORT. The control commands (spec/43_control.md R140, R141): NOP, which reports the state, and RDKS, which reads a slot
of the schedule. -/

namespace Sys2Proof.Machine

/-- Settles O14: in every state NOP has its effect, which is to leave the state as it is and answer OK. -/
theorem nopOnlyReportsStatus : Obligations.NopOnlyReportsStatus :=
  ⟨rfl, malformed_words_fail 0, fun _ =>
    ⟨_, exec_of_okEffect (i := .nop) rfl, rfl, rfl, rfl, rfl, rfl, respond_answered rfl, rfl, rfl⟩⟩

/-- A slot is built when the half it stands in is: 0 to 10 the forward half, 11 to 19 the inverse half (10_state.md R22,
R23). -/
theorem slotBuilt_of_halves {s : State} {n : Nat} (fwd : n ≤ 10 → s.fwdValid = true) (inv : 11 ≤ n → s.invValid = true) :
    slotBuilt s n = true := by
  rw [slotBuilt]
  split
  case isTrue low => exact fwd low
  case isFalse high => exact inv (Nat.lt_of_not_le high)

/-- Settles O20: of a built slot the effect of RDKS, of an unbuilt one the failure with NOT_BUILT, and from 20 up the failure
with SLOT_RANGE. -/
theorem rdksReadsTheSlot : Obligations.RdksReadsTheSlot := by
  refine ⟨fun slot fits => congrArg (·, 0) (encodeWord_rdks fits), malformed_words_fail 6, fun s =>
    ⟨fun slot fwd inv => ?_, fun slot low unbuilt => ?_, fun slot high inRange unbuilt => ?_,
      fun slot outOfRange _ => ?_⟩⟩
  · exact OkEffect.writeDout_ends (i := .rdks slot) ⟨slot.isLt, slotBuilt_of_halves fwd inv, rfl⟩
  · exact fails_of_needsUnbuiltHalf (i := .rdks slot) (.inl ⟨low, unbuilt⟩)
  · exact fails_of_needsUnbuiltHalf (i := .rdks slot) (.inr ⟨high, inRange, unbuilt⟩)
  · exact ⟨_, exec_rdks_of_le outOfRange s, raiseError_failed .slotRange s⟩

end Sys2Proof.Machine
end

section
/-! SUPPORT. Failures (spec/60_exceptions.md): the one code a command word is answered with, what a failing command changes,
and that ERR is sticky and decides nothing else. -/

namespace Sys2Proof.Machine

/-! ### The cause of each code (R151 to R156) -/

/-- The ILLEGAL words, by their fields (R152). -/
theorem decode_illegal_iff_fields (cmd : CmdWord) (din : Block) :
    (∃ why, decode cmd din = .illegal why) ↔
      7 ≤ cmd.toNat % 16 ∨ cmd.toNat / 16 % 16 ≠ 0 ∨ cmd.toNat / 2 ^ 13 ≠ 0 ∨
        (cmd.toNat / 2 ^ 8 % 2 ^ 5 ≠ 0 ∧ cmd.toNat % 16 ≠ 6) := by
  rw [decode_illegal_iff, rdksMask_iff]
  omega

/-- A step answers ILLEGAL exactly where the word decodes to no command (R152). -/
theorem step_answers_illegal_iff {s : State} {cmd : CmdWord} {din : Block} {rest : List HostEvent}
    (hp : s.pending = .command cmd din :: rest) :
    (∃ t, step s = .next t ∧ Answered .illegal s t) ↔ ∃ why, decode cmd din = .illegal why := by
  constructor
  · rintro ⟨t, h, illegal⟩
    rcases step_command_cases hp h with ⟨i, -, h⟩ | ⟨why, hd, -⟩
    · obtain ⟨code, answered, legal, -⟩ := exec_answered h
      exact absurd (answered.code_unique illegal) legal
    · exact ⟨why, hd⟩
  · rintro ⟨why, hd⟩
    exact ⟨_, step_eq_reject hp hd, respond_answered rfl⟩

/-- Settles O4. -/
theorem illegalWordsByField : Obligations.IllegalWordsByField := fun cmd din =>
  ⟨decode_illegal_iff_fields cmd din, fun _ _ hp =>
    (step_answers_illegal_iff hp).trans (decode_illegal_iff_fields cmd din)⟩

/-- Settles O25: a command has one answer, and `exec_answered` says when it is NOT_BUILT. -/
theorem notBuiltExactlyForAnUnbuiltHalf : Obligations.NotBuiltExactlyForAnUnbuiltHalf := by
  intro i s t h
  obtain ⟨code, answered, -, notBuilt, -⟩ := exec_answered h
  rw [← notBuilt]
  exact ⟨answered.code_unique, fun code_eq => code_eq ▸ answered⟩

/-- The fields of a legal word: OP is the command's, and SLOT is the slot of RDKS (30_encoding.md R55 to R57). -/
theorem fields_of_decode {cmd : CmdWord} {din : Block} {i : Instr} (hd : decode cmd din = .command i) :
    cmd.toNat % 16 = (Laws.CleanWord.opOf i).toNat ∧ ∀ n, i = .rdks n → cmd.toNat / 2 ^ 8 % 2 ^ 5 = n := by
  obtain ⟨words, -⟩ := legalWordsAreExactlyThese cmd din i
  rcases words.mp hd with
    ⟨rfl, rfl⟩ | ⟨rfl, rfl⟩ | ⟨rfl, rfl⟩ | ⟨rfl, rfl⟩ | ⟨rfl, rfl⟩ | ⟨rfl, rfl⟩ | ⟨slot, fits, rfl, rfl⟩
  case inr.inr.inr.inr.inr.inr =>
    have op : (256 * slot + 6) % 16 = 6 := by omega
    rw [rdksWord_toNat fits]
    refine ⟨op, ?_⟩
    rintro n ⟨⟩
    omega
  all_goals exact ⟨rfl, nofun⟩

/-- A legal word names a slot the core does not have exactly when it is an RDKS of a slot from 20 up (R153). -/
theorem slotRange_iff_fields {cmd : CmdWord} {din : Block} {i : Instr} (hd : decode cmd din = .command i) :
    (∃ n, decode cmd din = .command (.rdks n) ∧ 20 ≤ n) ↔ cmd.toNat % 16 = 6 ∧ 20 ≤ cmd.toNat / 2 ^ 8 % 2 ^ 5 := by
  obtain ⟨op, slot⟩ := fields_of_decode hd
  rw [op, hd]
  cases i with
  | nop | kexp _ | kext | kfull _ | enc _ | dec _ => simp [Laws.CleanWord.opOf]
  | rdks n =>
    rw [slot n rfl]
    simp [Laws.CleanWord.opOf]

/-- The half a legal word lacks, by its fields (R154). -/
theorem needsUnbuiltHalf_iff_fields {cmd : CmdWord} {din : Block} {i : Instr} (hd : decode cmd din = .command i)
    (s : State) :
    needsUnbuiltHalf i s ↔ ¬ (cmd.toNat % 16 = 6 ∧ 20 ≤ cmd.toNat / 2 ^ 8 % 2 ^ 5) ∧
      (((cmd.toNat % 16 = 2 ∨ cmd.toNat % 16 = 4 ∨ (cmd.toNat % 16 = 6 ∧ cmd.toNat / 2 ^ 8 % 2 ^ 5 ≤ 10)) ∧
          s.fwdValid = false) ∨
        ((cmd.toNat % 16 = 5 ∨ (cmd.toNat % 16 = 6 ∧ 11 ≤ cmd.toNat / 2 ^ 8 % 2 ^ 5)) ∧ s.invValid = false)) := by
  obtain ⟨op, slot⟩ := fields_of_decode hd
  rw [op]
  cases i with
  | nop | kexp _ | kext | kfull _ | enc _ | dec _ => simp [Laws.CleanWord.opOf, needsUnbuiltHalf]
  | rdks n =>
    rw [slot n rfl]
    simp only [Laws.CleanWord.opOf, needsUnbuiltHalf, BitVec.toNat_ofNat, Nat.reducePow, Nat.reduceMod, Nat.reduceEqDiff,
      false_or, true_and]
    constructor
    · rintro (⟨low, unbuilt⟩ | ⟨high, inRange, unbuilt⟩)
      · exact ⟨by omega, .inl ⟨low, unbuilt⟩⟩
      · exact ⟨by omega, .inr ⟨high, unbuilt⟩⟩
    · rintro ⟨inRange, ⟨low, unbuilt⟩ | ⟨high, unbuilt⟩⟩
      · exact .inl ⟨low, unbuilt⟩
      · exact .inr ⟨high, by omega, unbuilt⟩

/-- A code of STATUS that is none of the failures is OK (R151). -/
theorem eq_ok_of_ne_failures :
    ∀ bits : BitVec 4, bits ≤ 3#4 → bits ≠ 0x1#4 → bits ≠ 0x2#4 → bits ≠ 0x3#4 → bits = 0x0#4 := by
  decide

/-- Settles O26: the causes of O27, read off the fields of the word. -/
theorem oneCodeByPriority : Obligations.OneCodeByPriority := by
  intro s cmd din rest hp op slot illegal outOfRange notBuilt
  obtain ⟨t, -, ends, -⟩ := commandsAreAnsweredInOrder s cmd din rest hp
  obtain ⟨r, responses, isIllegal, isNotBuilt, isSlotRange, bound, -⟩ :=
    statusReportsFlagsAfterTheCommand s t cmd din rest hp ends
  refine ⟨t, r, ends, responses, ?_⟩
  have illegal_iff : statusCode r.status = 0x1#4 ↔ illegal := isIllegal.trans (decode_illegal_iff_fields cmd din)
  cases hd : decode cmd din with
  | illegal why =>
    have bad : illegal := (decode_illegal_iff_fields cmd din).mp ⟨why, hd⟩
    exact ⟨illegal_iff.mpr, (absurd bad ·), (absurd bad ·), (absurd bad ·)⟩
  | command i =>
    have slotRange_iff : statusCode r.status = 0x3#4 ↔ outOfRange := isSlotRange.trans (slotRange_iff_fields hd)
    have lacks : (∃ j, decode cmd din = .command j ∧ needsUnbuiltHalf j s) ↔ needsUnbuiltHalf i s := by simp [hd]
    have notBuilt_iff : statusCode r.status = 0x2#4 ↔ ¬ outOfRange ∧ notBuilt :=
      (isNotBuilt.trans lacks).trans (needsUnbuiltHalf_iff_fields hd s)
    refine ⟨illegal_iff.mpr, fun _ => slotRange_iff.mpr, fun _ inRange lack => notBuilt_iff.mpr ⟨inRange, lack⟩,
      fun legal inRange built => ?_⟩
    exact eq_ok_of_ne_failures _ bound (mt illegal_iff.mp legal) (fun code => built (notBuilt_iff.mp code).2)
      (mt slotRange_iff.mp inRange)

/-! ### What a failing command changes (R155) -/

/-- The response of an answer reads its code, the flags and DOUT as they stand after the command. -/
theorem Answered.response {code : Code} {s t : State} {r : Response} (h : Answered code s t)
    (responses : t.responses = s.responses ++ [r]) : StatusReads r.status code t ∧ r.dout = t.dout := by
  obtain ⟨r', responses', reads⟩ := h
  obtain rfl : r' = r := by simpa using responses'.symm.trans responses
  exact reads

/-- A command whose response is a failure did nothing but fail. -/
theorem eq_raiseError_of_failed {i : Instr} {s t : State} {r : Response} (h : exec i s = .next t)
    (responses : t.responses = s.responses ++ [r]) (failed : r.failed) : ∃ code, t = raiseError code s := by
  rcases exec_cases h with ⟨u, rfl, effect⟩ | ⟨rfl, -⟩ | ⟨rfl, -⟩
  · obtain ⟨-, -, same, -⟩ := effect.frame
    obtain ⟨status, -⟩ := (respond_answered same).response responses
    exact absurd status.code failed
  · exact ⟨_, rfl⟩
  · exact ⟨_, rfl⟩

/-- Settles O24: a failing word ends in `raiseError`, which changes ERR alone. -/
theorem failingCommandsChangeOnlyErr : Obligations.FailingCommandsChangeOnlyErr := by
  intro s t cmd din rest r hp h responses failed
  have fails : ∃ code, t = raiseError code { s with pending := rest } := by
    rcases step_command_cases hp h with ⟨i, -, h⟩ | ⟨why, -, rejected⟩
    · exact eq_raiseError_of_failed h responses failed
    · exact ⟨.illegal, rejected⟩
  obtain ⟨code, rfl⟩ := fails
  obtain ⟨-, dout⟩ := (raiseError_failed code { s with pending := rest }).answered.response responses
  exact ⟨rfl, dout⟩

/-! ### ERR is sticky (R157) -/

/-- ERR is 1 in `t`, and in every response added between `s` and `t`. -/
def ErrStays (s t : State) : Prop :=
  t.err = true ∧ ∃ later : List Response, t.responses = s.responses ++ later ∧ ∀ r ∈ later, r.status.getLsbD 10 = true

/-- Over no step at all, ERR = 1 stays. -/
theorem ErrStays.refl {s : State} (err : s.err = true) : ErrStays s s := ⟨err, [], by simp, by simp⟩

/-- ERR stays over two runs, one after the other. -/
theorem ErrStays.trans {s t u : State} (first : ErrStays s t) (second : ErrStays t u) : ErrStays s u := by
  obtain ⟨-, new, responses, bits⟩ := first
  obtain ⟨err, new', responses', bits'⟩ := second
  refine ⟨err, new ++ new', by rw [responses', responses, List.append_assoc], fun r hr => ?_⟩
  exact (List.mem_append.mp hr).elim (bits r) (bits' r)

/-- An answer with ERR = 1 after it reports ERR. -/
theorem Answered.errStays {code : Code} {s t : State} (h : Answered code s t) (err : t.err = true) : ErrStays s t := by
  obtain ⟨r, responses, status, -⟩ := h
  exact ⟨err, [r], responses, by simpa using status.err.trans err⟩

/-- No command clears ERR (10_state.md R28). -/
theorem exec_keeps_err {i : Instr} {s t : State} (h : exec i s = .next t) (err : s.err = true) : t.err = true := by
  rcases exec_cases h with ⟨u, rfl, effect⟩ | ⟨rfl, -⟩ | ⟨rfl, -⟩
  · obtain ⟨same, -⟩ := effect.frame
    exact same.trans err
  · rfl
  · rfl

/-- A step that takes no reset keeps ERR at 1. -/
theorem step_errStays {s t : State} (err : s.err = true) (noReset : ∀ rest, s.pending ≠ .reset :: rest)
    (h : step s = .next t) : ErrStays s t := by
  rcases step_cases h with ⟨-, rfl⟩ | ⟨rest, hp, -⟩ | ⟨cmd, din, rest, -, ⟨i, -, h⟩ | ⟨why, -, rfl⟩⟩
  · exact .refl err
  · exact absurd hp (noReset rest)
  · obtain ⟨code, answered, -⟩ := exec_answered h
    exact answered.errStays (exec_keeps_err h err)
  · exact (raiseError_failed .illegal { s with pending := rest }).answered.errStays rfl

/-- A step takes the first event off the port, if there is one, and leaves the rest. -/
theorem step_pending {s t : State} (h : step s = .next t) : t.pending = s.pending.tail := by
  rcases step_cases h with ⟨hp, rfl⟩ | ⟨rest, hp, rfl⟩ | ⟨cmd, din, rest, hp, ⟨i, -, h⟩ | ⟨why, -, rfl⟩⟩
  · rw [hp, List.tail_nil]
  · rw [hp, List.tail_cons, applyReset_pending]
  · obtain ⟨pending, -⟩ := exec_port h
    rw [hp, List.tail_cons, pending]
  · rw [hp, List.tail_cons, rejectCommand_pending]

/-- A run that takes no reset keeps ERR at 1. -/
theorem runSteps_errStays (k : Nat) : ∀ {s t : State}, s.err = true → HostEvent.reset ∉ s.pending.take k →
    runSteps k s = .next t → ErrStays s t := by
  induction k with
  | zero =>
    intro s t err _ h
    obtain rfl := next_inj h
    exact .refl err
  | succ k ih =>
    intro s t err noReset h
    obtain ⟨u, first, later⟩ := runSteps_succ h
    have stays : ErrStays s u := step_errStays err (fun rest hp => noReset (by simp [hp])) first
    have left : u.pending.take k = (s.pending.take (k + 1)).tail := by
      rw [step_pending first, List.tail_take_eq_take_tail, Nat.add_sub_cancel]
    have noReset' : HostEvent.reset ∉ u.pending.take k := fun reset => noReset (List.mem_of_mem_tail (left ▸ reset))
    exact stays.trans (ih stays.1 noReset' later)

/-- An effect does not depend on ERR, and leaves it as it is. -/
theorem OkEffect.with_err {i : Instr} {s u : State} (h : OkEffect i s u) (err : Bool) :
    OkEffect i { s with err := err } { u with err := err } := by
  cases i with
  | nop | kexp _ | kfull _ => obtain rfl : u = _ := h; rfl
  | kext | enc _ | dec _ => obtain ⟨built, rfl⟩ := h; exact ⟨built, rfl⟩
  | rdks n => obtain ⟨inRange, built, rfl⟩ := h; exact ⟨inRange, built, rfl⟩

/-- Settles O28: ERR stays by `runSteps_errStays`; an effect is the same whatever ERR is, and so is a failure. -/
theorem errIsStickyAndOtherwiseIdle : Obligations.ErrIsStickyAndOtherwiseIdle := by
  refine ⟨fun k _ _ err noReset h => runSteps_errStays k err noReset h, fun i s t h => ?_⟩
  rcases exec_cases h with ⟨u, rfl, effect⟩ | ⟨rfl, unbuilt⟩ | ⟨rfl, n, outOfRange, rfl⟩
  · obtain ⟨-, -, responses, -⟩ := effect.frame
    have ok : Answered .ok s (respond .ok u) := respond_answered responses
    refine ⟨_, exec_of_okEffect (effect.with_err true), rfl, rfl, rfl, rfl, rfl, fun code answered => ?_⟩
    exact ok.code_unique answered ▸ respond_answered responses
  · exact ⟨_, exec_of_needsUnbuiltHalf unbuilt, rfl, rfl, rfl, rfl, rfl, fun _ => id⟩
  · exact ⟨_, exec_rdks_of_le outOfRange _, rfl, rfl, rfl, rfl, rfl, fun _ => id⟩

end Sys2Proof.Machine
end

section
/-! SUPPORT. Runs (spec/70_reset_and_hazards.md R170 to R179): what a run has answered and whether it succeeded, that every
step and every run ends, and what is built before a key and after a new one. -/

namespace Sys2Proof.Machine

/-! ### The failure record (R179) -/

/-- A response is a failure when its code is not OK (60_exceptions.md R158). -/
theorem StatusReads.failed_iff {r : Response} {code : Code} {t : State} (h : StatusReads r.status code t) :
    r.failed ↔ code ≠ .ok :=
  not_congr ⟨fun zero => codeBits_injective (h.code.symm.trans zero), fun ok => h.code.trans (congrArg codeBits ok)⟩

/-- A run that has answered nothing, with ERR = 0, has nothing to record. -/
theorem failureRecord_of_no_responses {s : State} (err : s.err = false) (responses : s.responses = []) :
    ErrRecordsFailures s ∧ ResponsesLegal s := by
  simp [ErrRecordsFailures, ResponsesLegal, err, responses]

/-- Settles O32: at reset ERR is 0 and no response has been given. -/
theorem failureRecordAtReset : Obligations.FailureRecordAtReset := failureRecord_of_no_responses rfl rfl

/-- A command sets ERR exactly when its code is not OK (10_state.md R28). -/
theorem exec_err_iff {i : Instr} {s t : State} (h : exec i s = .next t) :
    ∃ code, Answered code s t ∧ (t.err = true ↔ s.err = true ∨ code ≠ .ok) := by
  rcases exec_cases h with ⟨u, rfl, effect⟩ | ⟨rfl, -⟩ | ⟨rfl, -⟩
  · obtain ⟨err, -, responses, -⟩ := effect.frame
    exact ⟨.ok, respond_answered responses, by simp [err]⟩
  · exact ⟨.notBuilt, respond_answered rfl, by simp⟩
  · exact ⟨.slotRange, respond_answered rfl, by simp⟩

/-- An answer that sets ERR exactly when its code is not OK keeps ERR the record of the failures. -/
theorem Answered.keeps_errRecordsFailures {code : Code} {s t : State} (h : Answered code s t)
    (err : t.err = true ↔ s.err = true ∨ code ≠ .ok) (hs : ErrRecordsFailures s) : ErrRecordsFailures t := by
  obtain ⟨r, responses, status, -⟩ := h
  rw [ErrRecordsFailures] at hs ⊢
  rw [err, hs, ← status.failed_iff, responses]
  simp only [List.mem_append, List.mem_singleton, or_and_right, exists_or, exists_eq_left]

/-- Every code is one of R151, and the reserved bits of an answer read zero (10_state.md R30). -/
theorem Answered.keeps_responsesLegal {code : Code} {s t : State} (h : Answered code s t)
    (failing : code ≠ .ok → t.err = true) (hs : ResponsesLegal s) : ResponsesLegal t := by
  obtain ⟨r, responses, -, bound, low, -, -, -, high, -⟩ := h.status failing
  intro r' hr'
  rw [responses, List.mem_append, List.mem_singleton] at hr'
  rcases hr' with earlier | rfl
  · exact hs r' earlier
  · exact ⟨bound, low, high⟩

/-- A step on a command word, legal or not, answers it, and sets ERR exactly when the code is not OK. -/
theorem step_err_iff {s t : State} {cmd : CmdWord} {din : Block} {rest : List HostEvent}
    (hp : s.pending = .command cmd din :: rest) (h : step s = .next t) :
    ∃ code, Answered code s t ∧ (t.err = true ↔ s.err = true ∨ code ≠ .ok) := by
  rcases step_command_cases hp h with ⟨i, -, h⟩ | ⟨why, -, rfl⟩
  · exact exec_err_iff (s := { s with pending := rest }) h
  · exact ⟨.illegal, respond_answered rfl, by simp⟩

/-- Every step keeps the failure record: an idle step changes nothing, and a reset begins it anew. -/
theorem step_keeps_failureRecord {s t : State} (record : ErrRecordsFailures s) (legal : ResponsesLegal s)
    (h : step s = .next t) : ErrRecordsFailures t ∧ ResponsesLegal t := by
  rcases step_cases h with ⟨-, rfl⟩ | ⟨rest, -, rfl⟩ | ⟨cmd, din, rest, hp, -⟩
  · exact ⟨record, legal⟩
  · exact failureRecord_of_no_responses rfl rfl
  · obtain ⟨code, answered, err⟩ := step_err_iff hp h
    exact ⟨answered.keeps_errRecordsFailures err record,
      answered.keeps_responsesLegal (fun failed => err.mpr (.inr failed)) legal⟩

/-- Where ERR records the failures, ERR = 0 says that there are none. -/
theorem ErrRecordsFailures.runSucceeded_iff {s : State} (h : ErrRecordsFailures s) : RunSucceeded s ↔ s.err = false := by
  rw [ErrRecordsFailures] at h
  rw [← Bool.not_eq_true, h]
  simp [RunSucceeded, Response.failed]

/-- Settles O33: every step keeps the record, by which a run succeeds exactly when ERR = 0. -/
theorem everyStepKeepsTheFailureRecord : Obligations.EveryStepKeepsTheFailureRecord := by
  intro s t record legal h
  obtain ⟨record', legal'⟩ := step_keeps_failureRecord record legal h
  exact ⟨record', legal', record'.runSucceeded_iff⟩

/-! ### Every step and every run ends (R174, R178) -/

/-- Settles O9: the idle step and the reset end, and a command word is answered. -/
theorem everyStepEndsInANextState : Obligations.EveryStepEndsInANextState := by
  intro s
  match hp : s.pending with
  | [] => exact ⟨s, step_eq_self hp⟩
  | .reset :: _ => exact ⟨_, step_eq_reset hp⟩
  | .command _ _ :: _ =>
    obtain ⟨t, -, ends, -⟩ := step_command_answered hp
    exact ⟨t, ends⟩

/-- A run of any machine that begins with a given step goes on from the state after it. -/
theorem run_of_step (M : Host.Core) {k : Nat} {s u : M.State} (h : M.step s = .next u) :
    M.run (k + 1) s = M.run k u := by
  rw [Host.Core.run, h]

/-- A run of the core that begins with a given step goes on from the state after it. -/
theorem runSteps_of_step {k : Nat} {s u : State} (h : step s = .next u) : runSteps (k + 1) s = runSteps k u :=
  run_of_step Sys2Proof.core h

/-- A step that takes no reset adds one response. -/
theorem step_responses_length {s t : State} {e : HostEvent} {rest : List HostEvent} (hp : s.pending = e :: rest)
    (noReset : e ≠ .reset) (h : step s = .next t) : t.responses.length = s.responses.length + 1 := by
  cases e with
  | reset => exact absurd rfl noReset
  | command cmd din =>
    obtain ⟨code, ⟨r, responses, -⟩, -⟩ := step_err_iff hp h
    rw [responses, List.length_append, List.length_singleton]

/-- As many steps as there are events empty the port, and, with no reset among them, add a response each. -/
theorem runSteps_empties_port (events : List HostEvent) : ∀ {s : State}, s.pending = events →
    ∃ t, runSteps events.length s = .next t ∧ t.pending = [] ∧
      (HostEvent.reset ∉ events → t.responses.length = s.responses.length + events.length) := by
  induction events with
  | nil => exact fun {s} hp => ⟨s, rfl, hp, fun _ => rfl⟩
  | cons e rest ih =>
    intro s hp
    obtain ⟨u, first⟩ := everyStepEndsInANextState s
    have left : u.pending = rest := by rw [step_pending first, hp, List.tail_cons]
    obtain ⟨t, later, empty, count⟩ := ih left
    refine ⟨t, (runSteps_of_step first).trans later, empty, fun noReset => ?_⟩
    obtain ⟨notFirst, notLater⟩ := not_or.mp (mt List.mem_cons.mpr noReset)
    rw [count notLater, step_responses_length hp (Ne.symm notFirst) first, List.length_cons]
    omega

/-- Settles O13: `runSteps_empties_port` for all that is issued. -/
theorem issuedCommandsAllFinish : Obligations.IssuedCommandsAllFinish := fun s => runSteps_empties_port s.pending rfl

/-! ### Before a key (R173) -/

/-- What every step on an allowed event keeps, a run whose events are all allowed keeps. -/
theorem runSteps_keeps {invariant : State → Prop} {allowed : HostEvent → Prop}
    (keeps : ∀ {s t : State}, (∀ e rest, s.pending = e :: rest → allowed e) → invariant s → step s = .next t → invariant t)
    (k : Nat) : ∀ {s t : State}, (∀ e ∈ s.pending.take k, allowed e) → invariant s → runSteps k s = .next t → invariant t := by
  induction k with
  | zero =>
    intro s t _ hs h
    obtain rfl := next_inj h
    exact hs
  | succ k ih =>
    intro s t events hs h
    obtain ⟨u, first, later⟩ := runSteps_succ h
    have hu : invariant u := keeps (fun e rest hp => events e (by simp [hp])) hs first
    have left : u.pending.take k = (s.pending.take (k + 1)).tail := by
      rw [step_pending first, List.tail_take_eq_take_tail, Nat.add_sub_cancel]
    exact ih (fun e he => events e (List.mem_of_mem_tail (left ▸ he))) hu later

/-- The event does not re-key the core. -/
def NotAKey (e : HostEvent) : Prop := ∀ cmd din, e = .command cmd din → ¬ buildsForward cmd

/-- Neither half of the schedule is built. -/
def NothingBuilt (s : State) : Prop := s.fwdValid = false ∧ s.invValid = false

/-- Without a key nothing gets built: KEXT needs the forward half (10_state.md R25, R26). -/
theorem NothingBuilt.step {s t : State} (noKey : ∀ e rest, s.pending = e :: rest → NotAKey e) (hs : NothingBuilt s)
    (h : step s = .next t) : NothingBuilt t := by
  obtain ⟨fwd, inv⟩ := hs
  obtain ⟨idle, reset, command⟩ := validFlagsChangeOnlyByTheirCommands s t h
  match hp : s.pending with
  | [] =>
    obtain ⟨fwd', inv'⟩ := idle hp
    exact ⟨fwd'.trans fwd, inv'.trans inv⟩
  | .reset :: rest => exact reset rest hp
  | .command cmd din :: rest =>
    obtain ⟨notKexp, notKfull⟩ := not_or.mp (noKey _ rest hp cmd din rfl)
    obtain ⟨fwd', inv'⟩ := command cmd din rest hp
    simp only [fwd, inv, notKexp, notKfull, Bool.false_eq_true, false_and, and_false, or_false] at fwd' inv'
    exact ⟨Bool.eq_false_iff.mpr fwd'.mp, Bool.eq_false_iff.mpr inv'.mp⟩

/-- Settles O36: the run builds nothing, and each of the three commands needs a half. -/
theorem nothingWorksBeforeAKey : Obligations.NothingWorksBeforeAKey := by
  intro k s t block fwd inv noKey h
  have events : ∀ e ∈ s.pending.take k, NotAKey e := by
    rintro _ he cmd din rfl
    exact noKey cmd din he
  obtain ⟨fwd', inv'⟩ : NothingBuilt t := runSteps_keeps NothingBuilt.step k events ⟨fwd, inv⟩ h
  exact ⟨fails_of_needsUnbuiltHalf (i := .enc block) fwd', fails_of_needsUnbuiltHalf (i := .dec block) inv',
    fails_of_needsUnbuiltHalf (i := .kext) fwd'⟩

/-! ### After a new key (R175) -/

/-- KEXP, from any state, leaves the core in step with the machine that holds the key and no inverse half. -/
theorem holds_of_kexp {key : Block} {s t : State} (h : exec (.kexp key) s = .next t) :
    Holds t { key := some key, invBuilt := false, err := t.err, dout := t.dout } := by
  obtain ⟨fwd, forward⟩ := forwardOf_of_exec (.inl rfl) h
  have stale : t.invValid = false := by simp [← Bool.not_eq_true, exec_validFlags h]
  refine ⟨fwd.mpr rfl, stale, by simp [stale], rfl, rfl, ?_, by simp⟩
  rintro k ⟨⟩ i low
  exact (forward key rfl i low).trans (roundKey_eq_refRoundKey key i.val)

/-- Settles O37: after KEXP the core answers as the machine that holds the new key. -/
theorem rekeyingInvalidatesTheInverseHalf : Obligations.RekeyingInvalidatesTheInverseHalf := by
  intro key crypt plain s t h
  have rekeyed := holds_of_kexp h
  obtain ⟨encrypted, encEnds, enc, -⟩ := rekeyed.answers_enc (din := plain)
  obtain ⟨extended, kextEnds, kext, -⟩ := rekeyed.answers_kext (din := 0)
  rw [command_enc_some (key := key) rfl] at enc
  rw [command_kext_some (key := key) rfl] at kext
  obtain ⟨decrypted, decEnds, dec, -⟩ := kext.answers_dec (din := crypt)
  rw [command_dec_built (key := key) rfl rfl] at dec
  exact ⟨fails_of_needsUnbuiltHalf (i := .dec crypt) rekeyed.inv, ⟨encrypted, encEnds, enc.dout⟩,
    extended, decrypted, kextEnds, decEnds, dec.dout⟩

end Sys2Proof.Machine
end
